-- ==== Sys2Proof/Word.lean ====
section
/-!
DEFINITION. The word types of the core and nothing else: bytes, 16-bit words and the two index
types the spec counts with (spec/00_scope.md R7 and R8, spec/10_state.md R20, R25, R26).
-/
namespace Sys2Proof

/-- `Bits8` (R8): a general register, a timer, a memory byte. -/
abbrev Byte := BitVec 8

/-- `Bits16` (R8): an instruction word, `I`, `PC`, a call-stack entry. -/
abbrev Word := BitVec 16

/-- The number of a general register, 0 to 15 (R20). -/
abbrev Reg := Fin 16

/-- The number of a key, 0 to 15 (R33). -/
abbrev Key := Fin 16

/-- VF, the register that is also the flag (R22). -/
abbrev VF : Reg := 15

/-- The number of addresses of `MEM` (R50). An address is in range when it is below this (R52). -/
abbrev memorySize : Nat := 4096

end Sys2Proof
end

