-- ==== Sys2Proof/Syntax.lean ====
section
/-!
DEFINITION. The instructions: one constructor per row of spec/opcode_table.json, in the order of
the opcode map (spec/30_encoding.md R73) with the six fallback rows of R75 last. The fields are
those of R71, each at the width of its encoding.
-/
namespace Sys2Proof

inductive Instr where
  /-- `00E0` CLS, R160. -/
  | cls
  /-- `00EE` RET, R100. -/
  | ret
  /-- `1NNN` JP NNN, R104. -/
  | jp (nnn : BitVec 12)
  /-- `2NNN` CALL NNN, R102. -/
  | call (nnn : BitVec 12)
  /-- `3XNN` SE Vx, NN, R106. -/
  | seImm (x : Reg) (nn : Byte)
  /-- `4XNN` SNE Vx, NN, R107. -/
  | sneImm (x : Reg) (nn : Byte)
  /-- `5XY0` SE Vx, Vy, R108. -/
  | seReg (x y : Reg)
  /-- `6XNN` LD Vx, NN, R120. -/
  | ldImm (x : Reg) (nn : Byte)
  /-- `7XNN` ADD Vx, NN, R121. -/
  | addImm (x : Reg) (nn : Byte)
  /-- `8XY0` LD Vx, Vy, R122. -/
  | ldReg (x y : Reg)
  /-- `8XY1` OR Vx, Vy, R124. -/
  | orReg (x y : Reg)
  /-- `8XY2` AND Vx, Vy, R125. -/
  | andReg (x y : Reg)
  /-- `8XY3` XOR Vx, Vy, R126. -/
  | xorReg (x y : Reg)
  /-- `8XY4` ADD Vx, Vy, R127. -/
  | addReg (x y : Reg)
  /-- `8XY5` SUB Vx, Vy, R128. -/
  | subReg (x y : Reg)
  /-- `8XY6` SHR Vx, Vy, R129. -/
  | shrReg (x y : Reg)
  /-- `8XY7` SUBN Vx, Vy, R130. -/
  | subnReg (x y : Reg)
  /-- `8XYE` SHL Vx, Vy, R131. -/
  | shlReg (x y : Reg)
  /-- `9XY0` SNE Vx, Vy, R109. -/
  | sneReg (x y : Reg)
  /-- `ANNN` LD I, NNN, R140. -/
  | ldI (nnn : BitVec 12)
  /-- `BNNN` JP V0, NNN, R105. -/
  | jpV0 (nnn : BitVec 12)
  /-- `CXNN` RND Vx, NN, R200. -/
  | rnd (x : Reg) (nn : Byte)
  /-- `DXYN` DRW Vx, Vy, N, R161. -/
  | drw (x y : Reg) (n : BitVec 4)
  /-- `EX9E` SKP Vx, R183. -/
  | skp (x : Reg)
  /-- `EXA1` SKNP Vx, R184. -/
  | sknp (x : Reg)
  /-- `FX07` LD Vx, DT, R180. -/
  | ldVxDt (x : Reg)
  /-- `FX0A` LD Vx, K, R186. -/
  | ldVxK (x : Reg)
  /-- `FX15` LD DT, Vx, R181. -/
  | ldDtVx (x : Reg)
  /-- `FX18` LD ST, Vx, R182. -/
  | ldStVx (x : Reg)
  /-- `FX1E` ADD I, Vx, R141. -/
  | addI (x : Reg)
  /-- `FX29` LD F, Vx, R142. -/
  | ldF (x : Reg)
  /-- `FX33` LD B, Vx, R143. -/
  | ldB (x : Reg)
  /-- `FX55` LD [I], Vx, R144. -/
  | storeRegs (x : Reg)
  /-- `FX65` LD Vx, [I], R145. -/
  | loadRegs (x : Reg)
  /-- An undefined word `0NNN`, executed as NoOp (R75, R82). -/
  | nop0 (nnn : BitVec 12)
  /-- An undefined word `5XYN`, executed as NoOp (R75, R82). -/
  | nop5 (x y : Reg) (n : BitVec 4)
  /-- An undefined word `8XYN`, executed as NoOp (R75, R82, R133). -/
  | nop8 (x y : Reg) (n : BitVec 4)
  /-- An undefined word `9XYN`, executed as NoOp (R75, R82). -/
  | nop9 (x y : Reg) (n : BitVec 4)
  /-- An undefined word `EXNN`, executed as NoOp (R75, R82). -/
  | nopE (x : Reg) (nn : Byte)
  /-- An undefined word `FXNN`, executed as NoOp (R75, R82). -/
  | nopF (x : Reg) (nn : Byte)
  deriving DecidableEq, Repr

end Sys2Proof
end

