-- ==== Sys2Proof/Decode.lean ====
section
/-!
DEFINITION. The decoder and the encoder, both written from spec/30_encoding.md: the fields of R71,
the opcode map of R73, and the undefined words of R75. The decoder is total on all 65536 words
(R76); on bytes it rejects only a stream that ends inside a word.
-/
namespace Sys2Proof

/-! ## Fields (R71) -/

/-- `F = w[15:12]`. -/
def family (w : Word) : BitVec 4 := w.extractLsb' 12 4

/-- `X = w[11:8]`, a register number. -/
def fieldX (w : Word) : Reg := (w.extractLsb' 8 4).toFin

/-- `Y = w[7:4]`, a register number. -/
def fieldY (w : Word) : Reg := (w.extractLsb' 4 4).toFin

/-- `N = w[3:0]`. -/
def fieldN (w : Word) : BitVec 4 := w.extractLsb' 0 4

/-- `NN = w[7:0]`. -/
def fieldNN (w : Word) : Byte := w.extractLsb' 0 8

/-- `NNN = w[11:0]`. -/
def fieldNNN (w : Word) : BitVec 12 := w.extractLsb' 0 12

/-! ## Decoding a word (R73 to R76) -/

/-- Family 0: `00E0`, `00EE`, and every other word undefined. -/
def decodeFamily0 (w : Word) : Instr :=
  if fieldNNN w = 0x0E0#12 then .cls
  else if fieldNNN w = 0x0EE#12 then .ret
  else .nop0 (fieldNNN w)

/-- Family 5: `5XY0`. -/
def decodeFamily5 (w : Word) : Instr :=
  if fieldN w = 0x0#4 then .seReg (fieldX w) (fieldY w)
  else .nop5 (fieldX w) (fieldY w) (fieldN w)

/-- Family 8: the nine low nibbles 0 to 7 and E. -/
def decodeFamily8 (w : Word) : Instr :=
  if fieldN w = 0x0#4 then .ldReg (fieldX w) (fieldY w)
  else if fieldN w = 0x1#4 then .orReg (fieldX w) (fieldY w)
  else if fieldN w = 0x2#4 then .andReg (fieldX w) (fieldY w)
  else if fieldN w = 0x3#4 then .xorReg (fieldX w) (fieldY w)
  else if fieldN w = 0x4#4 then .addReg (fieldX w) (fieldY w)
  else if fieldN w = 0x5#4 then .subReg (fieldX w) (fieldY w)
  else if fieldN w = 0x6#4 then .shrReg (fieldX w) (fieldY w)
  else if fieldN w = 0x7#4 then .subnReg (fieldX w) (fieldY w)
  else if fieldN w = 0xE#4 then .shlReg (fieldX w) (fieldY w)
  else .nop8 (fieldX w) (fieldY w) (fieldN w)

/-- Family 9: `9XY0`. -/
def decodeFamily9 (w : Word) : Instr :=
  if fieldN w = 0x0#4 then .sneReg (fieldX w) (fieldY w)
  else .nop9 (fieldX w) (fieldY w) (fieldN w)

/-- Family E: `EX9E` and `EXA1`. -/
def decodeFamilyE (w : Word) : Instr :=
  if fieldNN w = 0x9E#8 then .skp (fieldX w)
  else if fieldNN w = 0xA1#8 then .sknp (fieldX w)
  else .nopE (fieldX w) (fieldNN w)

/-- Family F: the nine sub-opcodes of R73. -/
def decodeFamilyF (w : Word) : Instr :=
  if fieldNN w = 0x07#8 then .ldVxDt (fieldX w)
  else if fieldNN w = 0x0A#8 then .ldVxK (fieldX w)
  else if fieldNN w = 0x15#8 then .ldDtVx (fieldX w)
  else if fieldNN w = 0x18#8 then .ldStVx (fieldX w)
  else if fieldNN w = 0x1E#8 then .addI (fieldX w)
  else if fieldNN w = 0x29#8 then .ldF (fieldX w)
  else if fieldNN w = 0x33#8 then .ldB (fieldX w)
  else if fieldNN w = 0x55#8 then .storeRegs (fieldX w)
  else if fieldNN w = 0x65#8 then .loadRegs (fieldX w)
  else .nopF (fieldX w) (fieldNN w)

/-- `Decode(w)` (R74): by the family nibble, then by the family's sub-opcode. -/
def decode (w : Word) : Instr :=
  match (family w).toNat with
  | 0x0 => decodeFamily0 w
  | 0x1 => .jp (fieldNNN w)
  | 0x2 => .call (fieldNNN w)
  | 0x3 => .seImm (fieldX w) (fieldNN w)
  | 0x4 => .sneImm (fieldX w) (fieldNN w)
  | 0x5 => decodeFamily5 w
  | 0x6 => .ldImm (fieldX w) (fieldNN w)
  | 0x7 => .addImm (fieldX w) (fieldNN w)
  | 0x8 => decodeFamily8 w
  | 0x9 => decodeFamily9 w
  | 0xA => .ldI (fieldNNN w)
  | 0xB => .jpV0 (fieldNNN w)
  | 0xC => .rnd (fieldX w) (fieldNN w)
  | 0xD => .drw (fieldX w) (fieldY w) (fieldN w)
  | 0xE => decodeFamilyE w
  | _   => decodeFamilyF w

/-! ## Decoding bytes (R56, R57, R70) -/

/-- `hi ++ lo`: the byte at the lower address is bits 15:8 (R57). -/
def wordOfBytes (hi lo : Byte) : Word := hi ++ lo

/-- Why a byte stream holds no instruction: it ends inside the one 16-bit word (R70). -/
inductive DecodeError where
  | truncated
  deriving DecidableEq, Repr

/-- The instruction at the head of a byte stream and the bytes after it. -/
def decodeBytes : List Byte → Except DecodeError (Instr × List Byte)
  | hi :: lo :: rest => .ok (decode (wordOfBytes hi lo), rest)
  | [_] => .error .truncated
  | [] => .error .truncated

/-- The high byte of a word, stored at the lower address (R57). -/
def highByte (w : Word) : Byte := w.extractLsb' 8 8

/-- The low byte of a word, stored at the higher address (R57). -/
def lowByte (w : Word) : Byte := w.extractLsb' 0 8

/-- The host's question: the instruction read from the word `w` of `nbits` bits, numbered as the
opcode table numbers them. Every instruction has exactly 16 bits (R70), so a longer word is none. -/
def decodeTableWord (nbits w : Nat) : Option Instr :=
  if nbits ≤ 16 then
    let word : Word := BitVec.ofNat 16 (w % 2 ^ nbits)
    match decodeBytes [highByte word, lowByte word] with
    | .ok (instr, _) => some instr
    | .error _ => none
  else none

/-! ## Encoding (R71, R73) -/

/-- A word of shape `FNNN`. -/
def wordFNNN (f : BitVec 4) (nnn : BitVec 12) : Word := f ++ nnn

/-- A word of shape `FXNN`. -/
def wordFXNN (f : BitVec 4) (x : Reg) (nn : Byte) : Word := f ++ (BitVec.ofNat 4 x.val ++ nn)

/-- A word of shape `FXYN`. -/
def wordFXYN (f : BitVec 4) (x y : Reg) (n : BitVec 4) : Word :=
  f ++ (BitVec.ofNat 4 x.val ++ (BitVec.ofNat 4 y.val ++ n))

/-- The word of an instruction, row by row of R73; an undefined word is itself. -/
def encode : Instr → Word
  | .cls => wordFNNN 0x0 0x0E0
  | .ret => wordFNNN 0x0 0x0EE
  | .jp nnn => wordFNNN 0x1 nnn
  | .call nnn => wordFNNN 0x2 nnn
  | .seImm x nn => wordFXNN 0x3 x nn
  | .sneImm x nn => wordFXNN 0x4 x nn
  | .seReg x y => wordFXYN 0x5 x y 0x0
  | .ldImm x nn => wordFXNN 0x6 x nn
  | .addImm x nn => wordFXNN 0x7 x nn
  | .ldReg x y => wordFXYN 0x8 x y 0x0
  | .orReg x y => wordFXYN 0x8 x y 0x1
  | .andReg x y => wordFXYN 0x8 x y 0x2
  | .xorReg x y => wordFXYN 0x8 x y 0x3
  | .addReg x y => wordFXYN 0x8 x y 0x4
  | .subReg x y => wordFXYN 0x8 x y 0x5
  | .shrReg x y => wordFXYN 0x8 x y 0x6
  | .subnReg x y => wordFXYN 0x8 x y 0x7
  | .shlReg x y => wordFXYN 0x8 x y 0xE
  | .sneReg x y => wordFXYN 0x9 x y 0x0
  | .ldI nnn => wordFNNN 0xA nnn
  | .jpV0 nnn => wordFNNN 0xB nnn
  | .rnd x nn => wordFXNN 0xC x nn
  | .drw x y n => wordFXYN 0xD x y n
  | .skp x => wordFXNN 0xE x 0x9E
  | .sknp x => wordFXNN 0xE x 0xA1
  | .ldVxDt x => wordFXNN 0xF x 0x07
  | .ldVxK x => wordFXNN 0xF x 0x0A
  | .ldDtVx x => wordFXNN 0xF x 0x15
  | .ldStVx x => wordFXNN 0xF x 0x18
  | .addI x => wordFXNN 0xF x 0x1E
  | .ldF x => wordFXNN 0xF x 0x29
  | .ldB x => wordFXNN 0xF x 0x33
  | .storeRegs x => wordFXNN 0xF x 0x55
  | .loadRegs x => wordFXNN 0xF x 0x65
  | .nop0 nnn => wordFNNN 0x0 nnn
  | .nop5 x y n => wordFXYN 0x5 x y n
  | .nop8 x y n => wordFXYN 0x8 x y n
  | .nop9 x y n => wordFXYN 0x9 x y n
  | .nopE x nn => wordFXNN 0xE x nn
  | .nopF x nn => wordFXNN 0xF x nn

/-! ## The opcode map as data (R73) -/

/-- One defined row of R73: the word `w` is the row's when `w AND mask = pattern`. -/
structure OpcodeRow where
  mask : Word
  pattern : Word
  deriving DecidableEq, Repr

/-- The word is the row's. -/
def OpcodeRow.matches (r : OpcodeRow) (w : Word) : Bool := w &&& r.mask == r.pattern

/-- The 34 defined rows of R73, in its order. -/
def opcodeRows : List OpcodeRow :=
  [⟨0xFFFF, 0x00E0⟩, ⟨0xFFFF, 0x00EE⟩, ⟨0xF000, 0x1000⟩, ⟨0xF000, 0x2000⟩, ⟨0xF000, 0x3000⟩,
   ⟨0xF000, 0x4000⟩, ⟨0xF00F, 0x5000⟩, ⟨0xF000, 0x6000⟩, ⟨0xF000, 0x7000⟩] ++
  [⟨0xF00F, 0x8000⟩, ⟨0xF00F, 0x8001⟩, ⟨0xF00F, 0x8002⟩, ⟨0xF00F, 0x8003⟩, ⟨0xF00F, 0x8004⟩,
   ⟨0xF00F, 0x8005⟩, ⟨0xF00F, 0x8006⟩, ⟨0xF00F, 0x8007⟩, ⟨0xF00F, 0x800E⟩] ++
  [⟨0xF00F, 0x9000⟩, ⟨0xF000, 0xA000⟩, ⟨0xF000, 0xB000⟩, ⟨0xF000, 0xC000⟩, ⟨0xF000, 0xD000⟩,
   ⟨0xF0FF, 0xE09E⟩, ⟨0xF0FF, 0xE0A1⟩] ++
  [⟨0xF0FF, 0xF007⟩, ⟨0xF0FF, 0xF00A⟩, ⟨0xF0FF, 0xF015⟩, ⟨0xF0FF, 0xF018⟩, ⟨0xF0FF, 0xF01E⟩,
   ⟨0xF0FF, 0xF029⟩, ⟨0xF0FF, 0xF033⟩, ⟨0xF0FF, 0xF055⟩, ⟨0xF0FF, 0xF065⟩]

/-- The row of R73 an instruction belongs to; an undefined word has none (R75). -/
def Instr.row : Instr → Option OpcodeRow
  | .cls => some ⟨0xFFFF, 0x00E0⟩
  | .ret => some ⟨0xFFFF, 0x00EE⟩
  | .jp _ => some ⟨0xF000, 0x1000⟩
  | .call _ => some ⟨0xF000, 0x2000⟩
  | .seImm _ _ => some ⟨0xF000, 0x3000⟩
  | .sneImm _ _ => some ⟨0xF000, 0x4000⟩
  | .seReg _ _ => some ⟨0xF00F, 0x5000⟩
  | .ldImm _ _ => some ⟨0xF000, 0x6000⟩
  | .addImm _ _ => some ⟨0xF000, 0x7000⟩
  | .ldReg _ _ => some ⟨0xF00F, 0x8000⟩
  | .orReg _ _ => some ⟨0xF00F, 0x8001⟩
  | .andReg _ _ => some ⟨0xF00F, 0x8002⟩
  | .xorReg _ _ => some ⟨0xF00F, 0x8003⟩
  | .addReg _ _ => some ⟨0xF00F, 0x8004⟩
  | .subReg _ _ => some ⟨0xF00F, 0x8005⟩
  | .shrReg _ _ => some ⟨0xF00F, 0x8006⟩
  | .subnReg _ _ => some ⟨0xF00F, 0x8007⟩
  | .shlReg _ _ => some ⟨0xF00F, 0x800E⟩
  | .sneReg _ _ => some ⟨0xF00F, 0x9000⟩
  | .ldI _ => some ⟨0xF000, 0xA000⟩
  | .jpV0 _ => some ⟨0xF000, 0xB000⟩
  | .rnd _ _ => some ⟨0xF000, 0xC000⟩
  | .drw _ _ _ => some ⟨0xF000, 0xD000⟩
  | .skp _ => some ⟨0xF0FF, 0xE09E⟩
  | .sknp _ => some ⟨0xF0FF, 0xE0A1⟩
  | .ldVxDt _ => some ⟨0xF0FF, 0xF007⟩
  | .ldVxK _ => some ⟨0xF0FF, 0xF00A⟩
  | .ldDtVx _ => some ⟨0xF0FF, 0xF015⟩
  | .ldStVx _ => some ⟨0xF0FF, 0xF018⟩
  | .addI _ => some ⟨0xF0FF, 0xF01E⟩
  | .ldF _ => some ⟨0xF0FF, 0xF029⟩
  | .ldB _ => some ⟨0xF0FF, 0xF033⟩
  | .storeRegs _ => some ⟨0xF0FF, 0xF055⟩
  | .loadRegs _ => some ⟨0xF0FF, 0xF065⟩
  | .nop0 _ | .nop5 _ _ _ | .nop8 _ _ _ | .nop9 _ _ _ | .nopE _ _ | .nopF _ _ => none

end Sys2Proof
end

