-- ==== Sys2Proof/Config.lean ====
section
/-!
DEFINITION. The parameters of spec/00_scope.md R6, as one record that `load` sets and `reset` keeps
(R36), the values the model's reset state holds for them, and the one free value of the model: the
random byte of a cycle for which no input is listed.
-/
namespace Sys2Proof

/-- `STACK_OVERFLOW_POLICY` (R6, R103): what CALL does with 16 entries on the stack. -/
inductive StackOverflowPolicy where
  | ignore
  | jumpNoPush
  | fault
  deriving DecidableEq, Repr

/-- `RET_EMPTY_POLICY` (R6, R101): what RET does with an empty stack. -/
inductive RetEmptyPolicy where
  | ignore
  | fault
  deriving DecidableEq, Repr

/-- `KEY_INDEX_POLICY` (R6, R185): EX9E and EXA1 with Vx above 15. -/
inductive KeyIndexPolicy where
  | fault
  | lowNibble
  deriving DecidableEq, Repr

/-- `FONT_DIGIT_POLICY` (R6, R142): FX29 with Vx above 15. -/
inductive FontDigitPolicy where
  | lowNibble
  | fullByte
  deriving DecidableEq, Repr

/-- The configuration of R6. Every field is constant while a program runs; only `load` writes it. -/
structure Configuration where
  waitForVblank : Bool
  wrapSprites : Bool
  resetVfOnLogic : Bool
  ips : Nat
  stackOverflow : StackOverflowPolicy
  retEmpty : RetEmptyPolicy
  keyIndex : KeyIndexPolicy
  fontDigit : FontDigitPolicy
  font : Vector Byte 80
  deriving DecidableEq, Repr

/-- `budget = floor(IPS / 60)`, the cycles of one tick (R224). -/
def Configuration.budget (c : Configuration) : Nat := c.ips / 60

/-- The default `FONT` of R243: 16 glyphs of 5 bytes, digit d at bytes 5·d to 5·d + 4. -/
def defaultFont : Vector Byte 80 :=
  #v[0xF0, 0x90, 0x90, 0x90, 0xF0,  0x20, 0x60, 0x20, 0x20, 0x70,
     0xF0, 0x10, 0xF0, 0x80, 0xF0,  0xF0, 0x10, 0xF0, 0x10, 0xF0,
     0x90, 0x90, 0xF0, 0x10, 0x10,  0xF0, 0x80, 0xF0, 0x10, 0xF0,
     0xF0, 0x80, 0xF0, 0x90, 0xF0,  0xF0, 0x10, 0x20, 0x40, 0x40,
     0xF0, 0x90, 0xF0, 0x90, 0xF0,  0xF0, 0x90, 0xF0, 0x10, 0xF0,
     0xF0, 0x90, 0xF0, 0x90, 0x90,  0xE0, 0x90, 0xE0, 0x90, 0xE0,
     0xF0, 0x80, 0x80, 0x80, 0xF0,  0xE0, 0x90, 0x90, 0x90, 0xE0,
     0xF0, 0x80, 0xF0, 0x80, 0xF0,  0xF0, 0x80, 0xF0, 0x80, 0x80]

/-- DESIGN CHOICE (log entry 1; unsafe for a claim that rests on it): the configuration the reset
state holds. The stack policies and the font are the defaults of R6; the quirk flags and `IPS` are
OPEN there and take the convention of spec/95_test_vectors.md; `KEY_INDEX_POLICY` and
`FONT_DIGIT_POLICY` are OPEN and have no default anywhere in the spec. -/
def Configuration.atReset : Configuration where
  waitForVblank := false
  wrapSprites := false
  resetVfOnLogic := false
  ips := 60
  stackOverflow := .ignore
  retEmpty := .ignore
  keyIndex := .fault
  fontDigit := .lowNibble
  font := defaultFont

/-- FREE VALUE (log entry 4): the random input of the n-th cycle for which the state lists no input.
R201: "a free input under no law, independent between cycles". -/
opaque Config.freeRandom : Nat → Byte

end Sys2Proof
end

