-- ==== Sys2Proof/Machine/State.lean ====
section
/-!
DEFINITION. Everything the spec gives the machine, as plain data (spec/10_state.md, spec/20_memory.md,
spec/60_exceptions.md), the inputs and drivers its transactions have (R226), and the state after reset
(R39). The last block of fields of `State` is the model's own: it stands for the agents that drive the
core (the Frame Scheduler, the host loop, the input collaborator), because one step of this machine is a
function of the state alone.
-/
namespace Sys2Proof.Machine

/-- `MEM` (R50): the bytes that differ from what an unlisted address reads as, by rising address. -/
abbrev Memory := List Host.Cell

/-- The keypad (R33): for each key, whether it is down. -/
abbrev Keypad := Vector Bool 16

/-- The framebuffer (R32): row `y`, then column `x`; `true` is a pixel that is on. -/
abbrev Framebuffer := Vector (Vector Bool 64) 32

/-- All keys up. -/
def Keypad.allUp : Keypad := Vector.replicate 16 false

/-- All pixels off. -/
def Framebuffer.clear : Framebuffer := Vector.replicate 32 (Vector.replicate 64 false)

/-- The kind of a fault and what its record holds beside the address (R211 to R216). -/
inductive FaultCause where
  /-- R212: raised by fetch; no word was read. -/
  | fetchOutOfRange
  /-- R213: raised by FX33, FX55, FX65 and DXYN; `addr` is the lowest out-of-range address. -/
  | dataOutOfRange (word : Word) (addr : Nat)
  /-- R214: raised by 2NNN under `STACK_OVERFLOW_POLICY = fault`. -/
  | stackOverflow (word : Word)
  /-- R215: raised by 00EE under `RET_EMPTY_POLICY = fault`. -/
  | stackUnderflow (word : Word)
  /-- R216: raised by EX9E and EXA1 under `KEY_INDEX_POLICY = fault`; `value` is Vx. -/
  | keyIndexOutOfRange (word : Word) (value : Byte)
  deriving DecidableEq, Repr

/-- The fault record (R35, R211): the address of the faulting instruction and the cause. -/
structure FaultRecord where
  pc : Word
  cause : FaultCause
  deriving DecidableEq, Repr

/-- What a `cycle` returns (R84). -/
inductive Status where
  | completed
  | retry
  | faulted
  | halted
  deriving DecidableEq, Repr

/-- What `load` and `reset` return (R226, R240, R245). -/
inductive LoadResult where
  | ok
  | programTooLarge
  | romUnreadable
  | configInvalid
  | notLoaded
  deriving DecidableEq, Repr

/-- The inputs of one `cycle` that come from outside (R80): the keypad snapshot and the random byte. -/
structure CycleInput where
  keys : Keypad
  rnd : Byte
  deriving DecidableEq, Repr

/-- What the host may do between two ticks (R233, R234, R246). A program is `none` where its bytes
cannot be obtained (R241). -/
inductive HostAction where
  | load (program : Option (List Byte)) (config : Configuration)
  | reset (program : Option (List Byte))
  | pausedTick
  deriving DecidableEq, Repr

/-- What the platform is handed at the end of a tick (R224, R230, R231). -/
structure Presentation where
  fb : Framebuffer
  soundOn : Bool
  deriving DecidableEq, Repr

/-- The state of the machine. -/
structure State where
  /-- `V[0]` .. `V[15]` (R20). -/
  v : Vector Byte 16
  /-- The index register `I` (R25). -/
  i : Word
  /-- The program counter `PC` (R26). -/
  pc : Word
  /-- `SP`, the number of live entries of the call stack (R29). -/
  sp : Fin 17
  /-- `STACK[0..15]` (R29). -/
  stack : Vector Word 16
  /-- The delay timer `DT` (R31). -/
  dt : Byte
  /-- The sound timer `ST` (R31). -/
  st : Byte
  /-- The framebuffer `FB` (R32). -/
  fb : Framebuffer
  /-- The keypad snapshot `KEYS` (R33, R80). -/
  keys : Keypad
  /-- The pending-key latch `PENDING` (R34). -/
  pending : Option Key
  /-- The fault latch `FAULT` (R35, R211). -/
  fault : Option FaultRecord
  /-- `INIT`: a `load` has succeeded (R35). -/
  init : Bool
  /-- `MEM` (R50). -/
  mem : Memory
  /-- `CONFIG`, set by `load` and kept by `reset` (R36). -/
  config : Configuration
  /-- The random input of the current cycle (R80, R201). -/
  rnd : Byte
  /-- The frame-cycle index, the Frame Scheduler's (R37, R225): the cycles already issued in this tick. -/
  fci : Nat
  /-- The model's own: the inputs of the coming cycles, nearest first (R232). -/
  inputs : List CycleInput
  /-- The model's own: how many cycles have drawn a free random byte (R201). -/
  draws : Nat
  /-- The model's own: what the host does after this tick, after the next, and so on (R233). -/
  hostActions : List (List HostAction)
  /-- The model's own: what the latest cycle returned (R84). -/
  status : Option Status
  /-- The model's own: what the platform was handed at the end of the latest tick (R224). -/
  presented : Option Presentation
  /-- The model's own: what the latest `load` or `reset` transaction returned (R226). -/
  lastLoad : Option LoadResult
  deriving DecidableEq, Repr

/-- Why the model itself stops. No constructor: every fault the spec names is a state of the core
(`FAULT` holds its record and later cycles return `Halted`, R211), never an end of the model's run, and
the spec leaves no instruction without an effect. -/
inductive Fault where
  deriving DecidableEq, Repr

/-- Why the model has no meaning for an instruction. -/
inductive Refusal where
  /-- Raised only by an arm of `exec` whose instruction has no meaning yet; safe. No arm of this model
  raises it. -/
  | notModelled (mnemonic : String)
  deriving DecidableEq, Repr

/-- The state after a successful `load` of an empty program (R39, R243). DESIGN CHOICE (log entries 1, 3
and 4): `config` and the fields after it are values the spec does not give; the two statements that
rest on them, `ResetStateIsAnEmptyLoad` and `InvariantHoldsAtReset`, say so. -/
def State.reset : State where
  v := Vector.replicate 16 0x00
  i := 0x0000
  pc := 0x0200
  sp := 0
  stack := Vector.replicate 16 0x0000
  dt := 0x00
  st := 0x00
  fb := Framebuffer.clear
  keys := Keypad.allUp
  pending := none
  fault := none
  init := true
  mem := []
  config := Configuration.atReset
  rnd := 0x00
  fci := 0
  inputs := []
  draws := 0
  hostActions := []
  status := none
  presented := none
  lastLoad := none

end Sys2Proof.Machine
end

