-- ==== Sys2Proof/Machine/Ops.lean ====
section
/-!
DEFINITION. The named operations every meaning is built from: memory, registers, the call stack, the
framebuffer, the four ways a cycle ends (spec/30_encoding.md R83, R84), and taking a fault
(spec/60_exceptions.md R211), the core's only exception. There is no return from a fault (R220): the
operation that leaves the faulted condition is `initialise` in Machine/Lifecycle.lean.
-/
namespace Sys2Proof.Machine

/-! ## Memory (R50 to R55) -/

/-- What an address that memory does not list reads as: the contents `load` leaves there (R51, R243),
the font at 0x050..0x09F and 0x00 everywhere else. -/
def Memory.unlisted (font : Vector Byte 80) (a : Nat) : Byte :=
  if h : 0x050 ≤ a ∧ a < 0x050 + 80 then font[a - 0x050] else 0x00

/-- The canonical form from the address `lo` on: addresses strictly rising and in range, and no entry
equal to what its address reads as unlisted. -/
def Memory.wfFrom (font : Vector Byte 80) : Nat → Memory → Bool
  | _, [] => true
  | lo, (a, b) :: rest =>
    decide (lo ≤ a) && decide (a < memorySize) && (b != Memory.unlisted font a) &&
      Memory.wfFrom font (a + 1) rest

/-- The canonical form of a memory. -/
def Memory.wf (font : Vector Byte 80) (m : Memory) : Bool := Memory.wfFrom font 0 m

/-- `MemRead(a, 1)` (R53). -/
def Memory.read (font : Vector Byte 80) (m : Memory) (a : Nat) : Byte :=
  match m with
  | [] => Memory.unlisted font a
  | (a', b) :: rest => if a = a' then b else Memory.read font rest a

/-- The cell `(a, b)`, listed before `rest` only where the byte differs from the unlisted one. -/
def Memory.cons (font : Vector Byte 80) (a : Nat) (b : Byte) (rest : Memory) : Memory :=
  if b = Memory.unlisted font a then rest else (a, b) :: rest

/-- `MemWrite(a, 1, v)` (R54), keeping the canonical form. -/
def Memory.write (font : Vector Byte 80) (m : Memory) (a : Nat) (b : Byte) : Memory :=
  match m with
  | [] => Memory.cons font a b []
  | (a', b') :: rest =>
    if a < a' then Memory.cons font a b ((a', b') :: rest)
    else if a = a' then Memory.cons font a b rest
    else (a', b') :: Memory.write font rest a b

/-- Bytes written at rising addresses from `a` on (R64). -/
def Memory.writeBytes (font : Vector Byte 80) (m : Memory) (a : Nat) : List Byte → Memory
  | [] => m
  | b :: rest => Memory.writeBytes font (Memory.write font m a b) (a + 1) rest

/-- The byte of `MEM` at an address. -/
def State.readByte (s : State) (a : Nat) : Byte := Memory.read s.config.font s.mem a

/-- Bytes stored to `MEM` at rising addresses from `a` on. -/
def State.storeBytes (s : State) (a : Nat) (bytes : List Byte) : State :=
  { s with mem := Memory.writeBytes s.config.font s.mem a bytes }

/-- The range check of R52 and R65 on the `count` addresses from `base` on: the lowest address that is
out of range, where there is one. -/
def firstOutOfRange (base count : Nat) : Option Nat :=
  if 0 < count ∧ memorySize ≤ base + count - 1 then some (max base memorySize) else none

/-! ## Registers (R20, R25) -/

/-- Read `V[x]`. -/
def State.reg (s : State) (x : Reg) : Byte := s.v[x]

/-- `V[x] <- b`. -/
def State.setReg (s : State) (x : Reg) (b : Byte) : State :=
  { s with v := s.v.set x.val b x.isLt }

/-! ## The call stack (R29, R30) -/

/-- `Push(v)`; `none` where its precondition `SP < 16` fails. -/
def State.push? (s : State) (ret : Word) : Option State :=
  if h : s.sp.val < 16 then
    some { s with stack := s.stack.set s.sp.val ret h, sp := ⟨s.sp.val + 1, by omega⟩ }
  else none

/-- `Pop()`; `none` where its precondition `SP > 0` fails. -/
def State.pop? (s : State) : Option (Word × State) :=
  if h : 0 < s.sp.val then
    have hlt : s.sp.val - 1 < 16 := by omega
    some (s.stack[s.sp.val - 1], { s with sp := ⟨s.sp.val - 1, by omega⟩ })
  else none

/-! ## The framebuffer (R32) -/

/-- `FB[y][x]`. -/
def Framebuffer.pixel (fb : Framebuffer) (y : Fin 32) (x : Fin 64) : Bool := (fb[y])[x]

/-- `FB[y][x] <- not FB[y][x]`. -/
def Framebuffer.flip (fb : Framebuffer) (y : Fin 32) (x : Fin 64) : Framebuffer :=
  fb.set y.val ((fb[y]).set x.val (!fb.pixel y x) x.isLt) y.isLt

/-! ## How an instruction ends (R83, R84, R211) -/

/-- The address `a` of the running instruction, which fetch has already passed by 2 (R81). -/
def State.instrAddr (s : State) : Word := s.pc - 2

/-- Fall-through: the cycle returns `Completed` (R80). -/
def complete (s : State) : Host.Outcome State Fault Refusal :=
  .next { s with status := some .completed }

/-- `retry` (R83): `PC` back to the instruction's own address, status `Retry`. -/
def retry (s : State) : Host.Outcome State Fault Refusal :=
  .next { s with pc := s.instrAddr, status := some .retry }

/-- Taking a fault at the address `a` (R211): `PC` and the record hold `a`, the latch is set, the
cycle returns `Faulted`, and nothing else changes. -/
def State.takeFault (s : State) (a : Word) (cause : FaultCause) : State :=
  { s with pc := a, fault := some { pc := a, cause := cause }, status := some .faulted }

/-- `raise Fault(kind, info)` in an instruction (R211): the fault is taken at the instruction's own
address. -/
def raise (cause : FaultCause) (s : State) : Host.Outcome State Fault Refusal :=
  .next (s.takeFault s.instrAddr cause)

/-- The skip of R110: exactly one more word is passed over where the condition holds. -/
def State.skipIf (s : State) (condition : Bool) : State :=
  if condition then { s with pc := s.pc + 2 } else s

/-- An access of `instr` to the `count` bytes from `I` on: the range check comes before any effect, and
the fault carries the instruction's word and the lowest bad address (R65, R213). -/
def withDataAccess (instr : Instr) (count : Nat) (s : State) (effect : State) :
    Host.Outcome State Fault Refusal :=
  match firstOutOfRange s.i.toNat count with
  | some addr => raise (.dataOutOfRange (encode instr) addr) s
  | none => complete effect

end Sys2Proof.Machine
end

