-- ==== Sys2Proof/Machine/Operands.lean ====
section
/-!
DEFINITION. How an instruction reads its operands where that is more than naming a register: immediates
(spec/30_encoding.md R72), the key index (R185), the font digit (R142), decimal digits (R143), the block
of registers (R144, R145), and the coordinates and bits of a sprite (R161, R162, R164).
-/
namespace Sys2Proof.Machine

/-- NNN zero-extended to a PC or I value (R72). -/
def extendNNN (nnn : BitVec 12) : Word := nnn.setWidth 16

/-- A register zero-extended to the width of PC and I (R105, R141). -/
def extendByte (b : Byte) : Word := b.setWidth 16

/-- `v[3:0]` as a key or a digit. -/
def lowNibble (b : Byte) : Fin 16 := (b.extractLsb' 0 4).toFin

/-- `KeyIndex` (R185): `none` where it raises `KeyIndexOutOfRange`. -/
def keyIndex (policy : KeyIndexPolicy) (b : Byte) : Option Key :=
  if b.toNat ≤ 15 then some (lowNibble b)
  else match policy with
    | .lowNibble => some (lowNibble b)
    | .fault => none

/-- The smallest key that is down (R186: "the smallest such k"). -/
def firstKeyDown (keys : Keypad) : Option Key :=
  (List.finRange 16).find? fun k => keys[k]

/-- The digit `d` of FX29 (R142). -/
def fontDigit (policy : FontDigitPolicy) (b : Byte) : Nat :=
  match policy with
  | .lowNibble => (lowNibble b).val
  | .fullByte => b.toNat

/-- `0x050 + 5 * d` (R142). -/
def glyphAddress (d : Nat) : Word := BitVec.ofNat 16 (0x050 + 5 * d)

/-- Hundreds, tens and units of a byte, in the order FX33 stores them (R143). -/
def bcdDigits (b : Byte) : List Byte :=
  [BitVec.ofNat 8 (b.toNat / 100), BitVec.ofNat 8 (b.toNat / 10 % 10), BitVec.ofNat 8 (b.toNat % 10)]

/-- `V[0]` to `V[x]`, the bytes FX55 stores (R144). -/
def regBlock (s : State) (x : Reg) : List Byte := s.v.toList.take (x.val + 1)

/-- `V[k] <- MemRead(a + k, 1)` for k from 0 to x, ascending (R145). -/
def loadBlock (s : State) (a : Nat) (x : Reg) : State :=
  (List.range (x.val + 1)).foldl (fun t k => t.setReg (Fin.ofNat 16 k) (s.readByte (a + k))) s

/-- The first column of a sprite, `Vx mod 64` (R161). -/
def spriteColumn (b : Byte) : Nat := b.toNat % 64

/-- The first row of a sprite, `Vy mod 32` (R161). -/
def spriteRow (b : Byte) : Nat := b.toNat % 32

/-- R, the rows processed: all N when wrapping, else those above the lower edge (R161, R164). -/
def spriteRows (wrap : Bool) (y0 n : Nat) : Nat := if wrap then n else min n (32 - y0)

/-- The column of bit `c` of a sprite row (R164): `none` where the bit is clipped. -/
def columnOf (wrap : Bool) (x0 c : Nat) : Option (Fin 64) :=
  if wrap then some (Fin.ofNat 64 (x0 + c))
  else if h : x0 + c < 64 then some ⟨x0 + c, h⟩ else none

/-- The framebuffer row of sprite row `r` (R164): `none` where the row is clipped. -/
def rowOf (wrap : Bool) (y0 r : Nat) : Option (Fin 32) :=
  if wrap then some (Fin.ofNat 32 (y0 + r))
  else if h : y0 + r < 32 then some ⟨y0 + r, h⟩ else none

/-- Bit `c` of a sprite row counted from the left: `row[7 - c]` (R161, R162). -/
def spriteBit (row : Byte) (c : Nat) : Bool := row.getLsbD (7 - c)

end Sys2Proof.Machine
end

