-- ==== Sys2Proof/Machine/Flags.lean ====
section
/-!
DEFINITION. Every flag computation of the core (the table of spec/10_state.md R24), each on the operand
values before the instruction writes anything, and the two ways VF is written: data then flag (R23), and
the logic-op quirk (R123). The collision flag is computed by the draw itself (Machine/Display.lean).
-/
namespace Sys2Proof.Machine

/-- Carry of 8XY4 (R127): the sum is above 255. -/
def carry (a b : Byte) : Bool := 255 < a.toNat + b.toNat

/-- No borrow of 8XY5 and 8XY7 (R128, R130): minuend at least subtrahend. -/
def noBorrow (minuend subtrahend : Byte) : Bool := subtrahend.toNat ≤ minuend.toNat

/-- The bit 8XY6 shifts out (R129). -/
def bitOutRight (b : Byte) : Bool := b.getLsbD 0

/-- The bit 8XYE shifts out (R131). -/
def bitOutLeft (b : Byte) : Bool := b.getLsbD 7

/-- The flag of FX1E on the untruncated sum (R141). -/
def indexOverflow (i : Word) (b : Byte) : Bool := 0x1000 ≤ i.toNat + b.toNat

/-- A flag value as the byte VF holds (R22). -/
def flagByte (f : Bool) : Byte := if f then 0x01 else 0x00

/-- `V[15] <- f`. -/
def State.setFlag (s : State) (f : Bool) : State := s.setReg VF (flagByte f)

/-- Data, then flag (R23): where `x` is 15 the flag replaces the data. -/
def State.dataThenFlag (s : State) (x : Reg) (data : Byte) (f : Bool) : State :=
  (s.setReg x data).setFlag f

/-- The last step of 8XY1, 8XY2 and 8XY3 (R123). -/
def State.logicQuirk (s : State) : State :=
  if s.config.resetVfOnLogic then s.setFlag false else s

end Sys2Proof.Machine
end

