-- ==== Sys2Proof/Machine/ArithLogic.lean ====
section
/-!
DEFINITION. The arithmetic and logic instructions (spec/41_arith_logic.md). Register arithmetic is
unsigned and wraps modulo 256 (R132); every operand is read before any write (R23).
-/
namespace Sys2Proof.Machine

/-- `6XNN` LD Vx, NN (R120). -/
def execLdImm (x : Reg) (nn : Byte) (s : State) : Host.Outcome State Fault Refusal :=
  complete (s.setReg x nn)

/-- `7XNN` ADD Vx, NN (R121): VF is no flag here. -/
def execAddImm (x : Reg) (nn : Byte) (s : State) : Host.Outcome State Fault Refusal :=
  complete (s.setReg x (s.reg x + nn))

/-- `8XY0` LD Vx, Vy (R122). -/
def execLdReg (x y : Reg) (s : State) : Host.Outcome State Fault Refusal :=
  complete (s.setReg x (s.reg y))

/-- `8XY1` OR Vx, Vy (R124, R123). -/
def execOrReg (x y : Reg) (s : State) : Host.Outcome State Fault Refusal :=
  complete (s.setReg x (s.reg x ||| s.reg y)).logicQuirk

/-- `8XY2` AND Vx, Vy (R125, R123). -/
def execAndReg (x y : Reg) (s : State) : Host.Outcome State Fault Refusal :=
  complete (s.setReg x (s.reg x &&& s.reg y)).logicQuirk

/-- `8XY3` XOR Vx, Vy (R126, R123). -/
def execXorReg (x y : Reg) (s : State) : Host.Outcome State Fault Refusal :=
  complete (s.setReg x (s.reg x ^^^ s.reg y)).logicQuirk

/-- `8XY4` ADD Vx, Vy (R127). -/
def execAddReg (x y : Reg) (s : State) : Host.Outcome State Fault Refusal :=
  complete (s.dataThenFlag x (s.reg x + s.reg y) (carry (s.reg x) (s.reg y)))

/-- `8XY5` SUB Vx, Vy (R128). -/
def execSubReg (x y : Reg) (s : State) : Host.Outcome State Fault Refusal :=
  complete (s.dataThenFlag x (s.reg x - s.reg y) (noBorrow (s.reg x) (s.reg y)))

/-- `8XY6` SHR Vx, Vy (R129): the old Vx is ignored. -/
def execShrReg (x y : Reg) (s : State) : Host.Outcome State Fault Refusal :=
  complete (s.dataThenFlag x (s.reg y >>> 1) (bitOutRight (s.reg y)))

/-- `8XY7` SUBN Vx, Vy (R130). -/
def execSubnReg (x y : Reg) (s : State) : Host.Outcome State Fault Refusal :=
  complete (s.dataThenFlag x (s.reg y - s.reg x) (noBorrow (s.reg y) (s.reg x)))

/-- `8XYE` SHL Vx, Vy (R131): the old Vx is ignored. -/
def execShlReg (x y : Reg) (s : State) : Host.Outcome State Fault Refusal :=
  complete (s.dataThenFlag x (s.reg y <<< 1) (bitOutLeft (s.reg y)))

end Sys2Proof.Machine
end

