-- ==== Sys2Proof/Machine/ControlFlow.lean ====
section
/-!
DEFINITION. The control flow instructions (spec/40_control_flow.md). Each meaning runs after fetch, with
`PC` two past the instruction's own address (R81).
-/
namespace Sys2Proof.Machine

/-- `00EE` RET (R100); with an empty stack, `RET_EMPTY_POLICY` decides (R101). -/
def execRet (s : State) : Host.Outcome State Fault Refusal :=
  match s.pop? with
  | some (target, t) => complete { t with pc := target }
  | none =>
    match s.config.retEmpty with
    | .ignore => complete s
    | .fault => raise (.stackUnderflow (encode .ret)) s

/-- `1NNN` JP NNN (R104). -/
def execJp (nnn : BitVec 12) (s : State) : Host.Outcome State Fault Refusal :=
  complete { s with pc := extendNNN nnn }

/-- `2NNN` CALL NNN (R102); with a full stack, `STACK_OVERFLOW_POLICY` decides (R103). -/
def execCall (nnn : BitVec 12) (s : State) : Host.Outcome State Fault Refusal :=
  match s.push? s.pc with
  | some t => complete { t with pc := extendNNN nnn }
  | none =>
    match s.config.stackOverflow with
    | .ignore => complete s
    | .jumpNoPush => complete { s with pc := extendNNN nnn }
    | .fault => raise (.stackOverflow (encode (.call nnn))) s

/-- `BNNN` JP V0, NNN (R105). -/
def execJpV0 (nnn : BitVec 12) (s : State) : Host.Outcome State Fault Refusal :=
  complete { s with pc := extendNNN nnn + extendByte (s.reg 0) }

/-- `3XNN` SE Vx, NN (R106). -/
def execSeImm (x : Reg) (nn : Byte) (s : State) : Host.Outcome State Fault Refusal :=
  complete (s.skipIf (s.reg x == nn))

/-- `4XNN` SNE Vx, NN (R107). -/
def execSneImm (x : Reg) (nn : Byte) (s : State) : Host.Outcome State Fault Refusal :=
  complete (s.skipIf (s.reg x != nn))

/-- `5XY0` SE Vx, Vy (R108). -/
def execSeReg (x y : Reg) (s : State) : Host.Outcome State Fault Refusal :=
  complete (s.skipIf (s.reg x == s.reg y))

/-- `9XY0` SNE Vx, Vy (R109). -/
def execSneReg (x y : Reg) (s : State) : Host.Outcome State Fault Refusal :=
  complete (s.skipIf (s.reg x != s.reg y))

end Sys2Proof.Machine
end

