-- ==== Sys2Proof/Machine/Display.lean ====
section
/-!
DEFINITION. The display instructions and the framebuffer write controller (spec/43_display.md). The
draw is the loop of R161 over the sprite's rows and the eight bits of each row.
-/
namespace Sys2Proof.Machine

/-- `00E0` CLS (R160). -/
def execCls (s : State) : Host.Outcome State Fault Refusal :=
  complete { s with fb := Framebuffer.clear }

/-- What a draw has done so far: the pixels, and whether some pixel went from on to off. -/
structure Canvas where
  fb : Framebuffer
  hit : Bool
  deriving DecidableEq, Repr

/-- XOR one set bit onto a pixel; an XOR that turns the pixel off is a hit (R161, R165). -/
def Canvas.invert (cv : Canvas) (y : Fin 32) (x : Fin 64) : Canvas where
  fb := cv.fb.flip y x
  hit := cv.hit || cv.fb.pixel y x

/-- Bit `c` of a sprite row on framebuffer row `y`: nothing for a clear or clipped bit (R161, R164). -/
def drawBit (wrap : Bool) (x0 : Nat) (y : Fin 32) (row : Byte) (cv : Canvas) (c : Nat) : Canvas :=
  if spriteBit row c then
    match columnOf wrap x0 c with
    | some x => cv.invert y x
    | none => cv
  else cv

/-- Sprite row `r`, its eight bits from the left (R162). -/
def drawRow (wrap : Bool) (x0 y0 : Nat) (cv : Canvas) (r : Nat) (row : Byte) : Canvas :=
  match rowOf wrap y0 r with
  | some y => (List.range 8).foldl (drawBit wrap x0 y row) cv
  | none => cv

/-- The `rows` sprite rows in memory from `base` on, drawn in ascending order (R161). -/
def drawSprite (wrap : Bool) (x0 y0 base rows : Nat) (s : State) : Canvas :=
  (List.range rows).foldl (fun cv r => drawRow wrap x0 y0 cv r (s.readByte (base + r)))
    { fb := s.fb, hit := false }

/-- The rows DXYN processes in a state (R161). -/
def drawnRows (y : Reg) (n : BitVec 4) (s : State) : Nat :=
  spriteRows s.config.wrapSprites (spriteRow (s.reg y)) n.toNat

/-- The canvas DXYN leaves in a state (R161). -/
def drawnCanvas (x y : Reg) (n : BitVec 4) (s : State) : Canvas :=
  drawSprite s.config.wrapSprites (spriteColumn (s.reg x)) (spriteRow (s.reg y)) s.i.toNat
    (drawnRows y n s) s

/-- The display wait holds the draw back: the quirk is on and this is not the first cycle of its tick
(R163). -/
def State.drawWaits (s : State) : Bool := s.config.waitForVblank && decide (0 < s.fci)

/-- `DXYN` DRW Vx, Vy, N (R161): the wait comes before the range check (R217), VF last. -/
def execDrw (x y : Reg) (n : BitVec 4) (s : State) : Host.Outcome State Fault Refusal :=
  if s.drawWaits then retry s
  else
    withDataAccess (.drw x y n) (drawnRows y n s) s
      (State.setFlag { s with fb := (drawnCanvas x y n s).fb } (drawnCanvas x y n s).hit)

end Sys2Proof.Machine
end

