-- ==== Sys2Proof/Machine/IndexMemory.lean ====
section
/-!
DEFINITION. The index register and memory instructions (spec/42_index_memory.md). Arithmetic on I is
unsigned and wraps modulo 2^16; every effective address is an unbounded number checked against 4096
before any write (R146, R65).
-/
namespace Sys2Proof.Machine

/-- `ANNN` LD I, NNN (R140). -/
def execLdI (nnn : BitVec 12) (s : State) : Host.Outcome State Fault Refusal :=
  complete { s with i := extendNNN nnn }

/-- `FX1E` ADD I, Vx (R141): the flag is that of the untruncated sum, written last. -/
def execAddI (x : Reg) (s : State) : Host.Outcome State Fault Refusal :=
  complete (State.setFlag { s with i := s.i + extendByte (s.reg x) } (indexOverflow s.i (s.reg x)))

/-- `FX29` LD F, Vx (R142). -/
def execLdF (x : Reg) (s : State) : Host.Outcome State Fault Refusal :=
  complete { s with i := glyphAddress (fontDigit s.config.fontDigit (s.reg x)) }

/-- `FX33` LD B, Vx (R143). -/
def execLdB (x : Reg) (s : State) : Host.Outcome State Fault Refusal :=
  withDataAccess (.ldB x) 3 s (s.storeBytes s.i.toNat (bcdDigits (s.reg x)))

/-- `I <- trunc_16(I + X + 1)`, the advance of FX55 and FX65 (R144, R145). -/
def State.advanceI (s : State) (x : Reg) : State :=
  { s with i := s.i + BitVec.ofNat 16 (x.val + 1) }

/-- `FX55` LD [I], Vx (R144). -/
def execStoreRegs (x : Reg) (s : State) : Host.Outcome State Fault Refusal :=
  withDataAccess (.storeRegs x) (x.val + 1) s
    ((s.storeBytes s.i.toNat (regBlock s x)).advanceI x)

/-- `FX65` LD Vx, [I] (R145). -/
def execLoadRegs (x : Reg) (s : State) : Host.Outcome State Fault Refusal :=
  withDataAccess (.loadRegs x) (x.val + 1) s ((loadBlock s s.i.toNat x).advanceI x)

end Sys2Proof.Machine
end

