-- ==== Sys2Proof/Machine/NoOp.lean ====
section
/-!
DEFINITION. NoOp, the executed form of every undefined word (spec/30_encoding.md R75, R82): nothing but
the fetch's advance of PC, status `Completed`. One definition per fallback row of the opcode table.
-/
namespace Sys2Proof.Machine

/-- `0NNN` other than `00E0` and `00EE`; the classic machine-code call among them (R75, R222). -/
def execNop0 (_nnn : BitVec 12) (s : State) : Host.Outcome State Fault Refusal := complete s

/-- `5XYN` with N not 0 (R75). -/
def execNop5 (_x _y : Reg) (_n : BitVec 4) (s : State) : Host.Outcome State Fault Refusal := complete s

/-- `8XYN` with N in 8 to D, or F (R75, R133). -/
def execNop8 (_x _y : Reg) (_n : BitVec 4) (s : State) : Host.Outcome State Fault Refusal := complete s

/-- `9XYN` with N not 0 (R75). -/
def execNop9 (_x _y : Reg) (_n : BitVec 4) (s : State) : Host.Outcome State Fault Refusal := complete s

/-- `EXNN` with NN other than 9E and A1 (R75). -/
def execNopE (_x : Reg) (_nn : Byte) (s : State) : Host.Outcome State Fault Refusal := complete s

/-- `FXNN` with NN none of the nine sub-opcodes (R75). -/
def execNopF (_x : Reg) (_nn : Byte) (s : State) : Host.Outcome State Fault Refusal := complete s

end Sys2Proof.Machine
end

