-- ==== Sys2Proof/Machine/Random.lean ====
section
/-!
DEFINITION. The random number instruction (spec/45_random.md).
-/
namespace Sys2Proof.Machine

/-- `CXNN` RND Vx, NN (R200): the random input of this cycle, masked. -/
def execRnd (x : Reg) (nn : Byte) (s : State) : Host.Outcome State Fault Refusal :=
  complete (s.setReg x (s.rnd &&& nn))

end Sys2Proof.Machine
end

