-- ==== Sys2Proof/Machine/TimersInput.lean ====
section
/-!
DEFINITION. The timer and input instructions (spec/44_timers_input.md). They read the keypad snapshot
taken at the start of the cycle (R33); the timers count down in `timerTick`, not here.
-/
namespace Sys2Proof.Machine

/-- `FX07` LD Vx, DT (R180). -/
def execLdVxDt (x : Reg) (s : State) : Host.Outcome State Fault Refusal :=
  complete (s.setReg x s.dt)

/-- `FX15` LD DT, Vx (R181). -/
def execLdDtVx (x : Reg) (s : State) : Host.Outcome State Fault Refusal :=
  complete { s with dt := s.reg x }

/-- `FX18` LD ST, Vx (R182). -/
def execLdStVx (x : Reg) (s : State) : Host.Outcome State Fault Refusal :=
  complete { s with st := s.reg x }

/-- A key test of `instr` on Vx (R185): the skip `skips` gives for the key's state, or the fault. -/
def keyTest (instr : Instr) (x : Reg) (skips : Bool → Bool) (s : State) :
    Host.Outcome State Fault Refusal :=
  match keyIndex s.config.keyIndex (s.reg x) with
  | some k => complete (s.skipIf (skips s.keys[k]))
  | none => raise (.keyIndexOutOfRange (encode instr) (s.reg x)) s

/-- `EX9E` SKP Vx (R183). -/
def execSkp (x : Reg) (s : State) : Host.Outcome State Fault Refusal :=
  keyTest (.skp x) x (fun down => down) s

/-- `EXA1` SKNP Vx (R184). -/
def execSknp (x : Reg) (s : State) : Host.Outcome State Fault Refusal :=
  keyTest (.sknp x) x (fun down => !down) s

/-- `FX0A` LD Vx, K (R186): latch the smallest key down and retry; commit in a later cycle that sees
the latched key up. -/
def execLdVxK (x : Reg) (s : State) : Host.Outcome State Fault Refusal :=
  match s.pending with
  | none => retry { s with pending := firstKeyDown s.keys }
  | some k =>
    if s.keys[k] then retry s
    else complete { s.setReg x (BitVec.ofNat 8 k.val) with pending := none }

end Sys2Proof.Machine
end

