-- ==== Sys2Proof/Machine/Fetch.lean ====
section
/-!
DEFINITION. Instruction fetch (spec/20_memory.md R56 to R58): two bytes of `MEM` at PC and PC + 1,
big-endian, from any PC the range check admits, odd ones included.
-/
namespace Sys2Proof.Machine

/-- `Fetch()` (R56): the word and the state with PC advanced by 2; `none` where it raises
`FetchOutOfRange`, with no byte read and PC unmoved. -/
def fetch (s : State) : Option (Word × State) :=
  if memorySize ≤ s.pc.toNat + 1 then none
  else some (wordOfBytes (s.readByte s.pc.toNat) (s.readByte (s.pc.toNat + 1)),
    { s with pc := s.pc + 2 })

/-- The word stands at PC: fetch would return it. -/
def State.fetches (s : State) (w : Word) : Prop := (fetch s).map Prod.fst = some w

end Sys2Proof.Machine
end

