-- ==== Sys2Proof/Machine/Cycle.lean ====
section
/-!
DEFINITION. The `cycle` and `timer_tick` transactions (spec/30_encoding.md R80, spec/60_exceptions.md
R217, R223).
-/
namespace Sys2Proof.Machine

/-- The core does not run: never loaded, or faulted (R35). -/
def State.halted (s : State) : Bool := !s.init || s.fault.isSome

/-- What an instruction finds when it starts: the inputs of its cycle latched (R80). -/
def State.latchInputs (s : State) (keys : Keypad) (rnd : Byte) (fci : Nat) : State :=
  { s with keys := keys, rnd := rnd, fci := fci }

/-- `cycle(keys, rnd, fci)` (R80): `Halted` before anything, then the fetch and its fault, then the
decoded instruction (R217). -/
def cycle (keys : Keypad) (rnd : Byte) (fci : Nat) (s : State) : Host.Outcome State Fault Refusal :=
  if s.halted then .next { s with status := some .halted }
  else
    match fetch s with
    | none => .next (s.takeFault s.pc .fetchOutOfRange)
    | some (w, t) => exec (decode w) (t.latchInputs keys rnd fci)

/-- A timer's decrement, floored at zero (R31, R223). -/
def countDown (t : Byte) : Byte := if t = 0x00 then 0x00 else t - 1

/-- `timer_tick()` (R223): a halted core's timers do not move. -/
def timerTick (s : State) : State :=
  if s.halted then s else { s with dt := countDown s.dt, st := countDown s.st }

/-- `sound_on = (ST > 0)` (R41). -/
def State.soundOn (s : State) : Bool := s.st ≠ 0x00

end Sys2Proof.Machine
end

