-- ==== Sys2Proof/Machine/Lifecycle.lean ====
section
/-!
DEFINITION. The `load` and `reset` transactions (spec/70_reset_and_hazards.md R240 to R246), the only way
out of the faulted condition (R220). A failed one writes nothing but the result it returns (R242).
-/
namespace Sys2Proof.Machine

/-- The greatest length of a program image (R7, R51, R241). -/
abbrev programCapacity : Nat := 3584

/-- Where a program is loaded and first fetched (R51, R244). -/
abbrev programBase : Nat := 0x200

/-- `initialise(program)` (R243): zero-filled memory with the font is the memory that lists nothing,
and the program is written over it. -/
def initialise (program : List Byte) (s : State) : State :=
  { s with
    mem := Memory.writeBytes s.config.font [] programBase program
    v := Vector.replicate 16 0x00
    i := 0x0000
    pc := 0x0200
    sp := 0
    stack := Vector.replicate 16 0x0000
    dt := 0x00
    st := 0x00
    fb := Framebuffer.clear
    keys := Keypad.allUp
    pending := none
    fault := none
    init := true }

/-- A `load` or `reset` that fails: no state changes (R242), only the result is returned. -/
def loadFails (result : LoadResult) (s : State) : State := { s with lastLoad := some result }

/-- `load(program, config)` (R240): the checks in the order of the rule, then the configuration and the
initial state. -/
def load (program : Option (List Byte)) (config : Configuration) (s : State) : State :=
  match program with
  | none => loadFails .romUnreadable s
  | some bytes =>
    if programCapacity < bytes.length then loadFails .programTooLarge s
    else if config.ips < 60 then loadFails .configInvalid s
    else { initialise bytes { s with config := config } with lastLoad := some .ok }

/-- `reset(program)` (R245): as `load`, but the configuration is kept and a core that was never loaded
refuses it. -/
def resetCore (program : Option (List Byte)) (s : State) : State :=
  if s.init then
    match program with
    | none => loadFails .romUnreadable s
    | some bytes =>
      if programCapacity < bytes.length then loadFails .programTooLarge s
      else { initialise bytes s with lastLoad := some .ok }
  else loadFails .notLoaded s

/-- One action of the host between two ticks (R233, R246); a paused tick runs no transaction (R234). -/
def hostAct (s : State) : HostAction → State
  | .load program config => load program config s
  | .reset program => resetCore program s
  | .pausedTick => s

end Sys2Proof.Machine
end

