-- ==== Sys2Proof/Machine/Scheduler.lean ====
section
/-!
DEFINITION. The agents that drive the core, as far as its interface specifies them
(spec/60_exceptions.md R224, R225, R230 to R234): the inputs of the next cycle, the end of a tick, and
the host between two ticks.
-/
namespace Sys2Proof.Machine

/-- The keypad snapshot of the next cycle (R232): the listed one, else the latest written. -/
def State.nextKeys (s : State) : Keypad :=
  match s.inputs with
  | [] => s.keys
  | c :: _ => c.keys

/-- The random input of the next cycle (R201): the listed one, else a free value. -/
def State.nextRnd (s : State) : Byte :=
  match s.inputs with
  | [] => Config.freeRandom s.draws
  | c :: _ => c.rnd

/-- The inputs of the next cycle are used up. -/
def State.consumeInput (s : State) : State :=
  match s.inputs with
  | [] => { s with draws := s.draws + 1 }
  | _ :: rest => { s with inputs := rest }

/-- The scheduler issues no more cycles in this tick: the budget is spent, or the cycle returned
`Faulted` or `Halted` (R224). A `Retry` counts as a cycle (R83, R225). -/
def State.tickEnds (s : State) : Bool :=
  s.status = some .faulted || s.status = some .halted || s.config.budget ≤ s.fci + 1

/-- FB and `sound_on` handed to the platform (R230, R231). -/
def State.present (s : State) : State :=
  { s with presented := some { fb := s.fb, soundOn := s.soundOn } }

/-- What the host does between this tick and the next (R233, R246). -/
def betweenTicks (s : State) : State :=
  match s.hostActions with
  | [] => s
  | actions :: rest => actions.foldl hostAct { s with hostActions := rest }

/-- The end of a tick, in the order of R224: the timers, then the presentation; then the host. The next
tick starts with frame-cycle index 0 (R225). -/
def endTick (s : State) : State := betweenTicks { (timerTick s).present with fci := 0 }

/-- What the scheduler does after a cycle: end the tick, or go on to the next cycle of it (R224, R225). -/
def endCycle (s : State) : State :=
  if s.tickEnds then endTick s else { s with fci := s.fci + 1 }

end Sys2Proof.Machine
end

