-- ==== Sys2Proof/Machine/Step.lean ====
section
/-!
DEFINITION. One step of the machine: one `cycle` transaction issued by the Frame Scheduler with its
inputs, and, where that cycle is the last of its tick, the `timer_tick`, the presentation and the host's
actions that stand before the next cycle (spec/60_exceptions.md R224, R233).
-/
namespace Sys2Proof.Machine

/-- One cycle and what follows it up to the next. -/
def step (s : State) : Host.Outcome State Fault Refusal :=
  match cycle s.nextKeys s.nextRnd s.fci s.consumeInput with
  | .next t => .next (endCycle t)
  | .fault r => .fault r
  | .refused r => .refused r

/-- The state with the opcode-table word `w` stored where `step` fetches next (R56, R57), and with what
that fetch needs: a core that runs (R35) and a PC from which two bytes can be read, the program's base
where the state's own PC is none (R52, R244). -/
def State.withFetchWord (s : State) (nbits w : Nat) : State :=
  let word : Word := BitVec.ofNat 16 (w % 2 ^ nbits)
  let a : Word := if memorySize ≤ s.pc.toNat + 1 then 0x0200 else s.pc
  { s with
    pc := a
    init := true
    fault := none
    mem := Memory.writeBytes s.config.font s.mem a.toNat [highByte word, lowByte word] }

end Sys2Proof.Machine
end

