-- ==== Sys2Proof/Safety.lean ====
section
/-!
DEFINITION. What counts as a good state and a safe run, in the terms the statements use: a running core,
the invariant every step keeps, and the pixels a sprite covers.
-/
namespace Sys2Proof.Machine

/-- The core runs instructions: loaded and not faulted (R35). -/
def State.running (s : State) : Prop := s.init = true ∧ s.fault = none

/-- The next instruction to be fetched is an FX0A (R187). -/
def State.awaitsKey (s : State) : Prop := ∃ w x, s.fetches w ∧ decode w = .ldVxK x

/-- The invariant of the machine. -/
structure Inv (s : State) : Prop where
  /-- The memory keeps its canonical form (the model's own). -/
  memCanonical : Memory.wf s.config.font s.mem = true
  /-- R28: the largest value any rule can write to PC is 0x10FE. -/
  pcBound : s.pc.toNat ≤ 0x10FE
  /-- R100: a live stack entry is at most 0x1000. -/
  stackBound : ∀ k : Fin 16, k.val < s.sp.val → (s.stack[k]).toNat ≤ 0x1000
  /-- R6, R240: the configuration has IPS at least 60. -/
  ipsBound : 60 ≤ s.config.ips
  /-- R224, R225: the frame-cycle index is below the budget. -/
  fciBound : s.fci < s.config.budget
  /-- R211: PC stays at the faulting instruction. -/
  faultAtPc : ∀ f, s.fault = some f → f.pc = s.pc
  /-- R187: while a key is latched the next instruction is that FX0A. -/
  latchWaits : s.pending ≠ none → s.awaitsKey

/-- A safe run: the model itself never stops, and the state it is in meets the invariant and holds no
fault of the core. -/
def State.safe (s : State) : Prop := Inv s ∧ s.running

/-- Column `c` of row `r` is where bit `b` of sprite row `k` is drawn by DXYN with its origin at column
`x0` and row `y0`: modulo the framebuffer when sprites wrap, else exactly (R161, R162, R164). -/
def landsOn (wrap : Bool) (x0 y0 k b : Nat) (r : Fin 32) (c : Fin 64) : Prop :=
  if wrap = true then r.val = (y0 + k) % 32 ∧ c.val = (x0 + b) % 64
  else r.val = y0 + k ∧ c.val = x0 + b

/-- The pixel is covered by a set bit of the N-row sprite that DXYN with fields `x`, `y`, `n` draws in the
state: bit 7 - b of the byte at I + k is set and lands there (R161, R162). -/
def State.spriteCovers (s : State) (x y : Reg) (n : BitVec 4) (r : Fin 32) (c : Fin 64) : Prop :=
  ∃ k b : Nat, k < n.toNat ∧ b < 8 ∧ (s.readByte (s.i.toNat + k)).getLsbD (7 - b) = true ∧
    landsOn s.config.wrapSprites ((s.reg x).toNat % 64) ((s.reg y).toNat % 32) k b r c

/-! ## The shapes the statements about one instruction share -/

/-- The instruction's word is the number `w`, and the word decodes to the instruction (R71, R73, R74). -/
def HasWord (instr : Instr) (w : Nat) : Prop :=
  (encode instr).toNat = w ∧ decode (encode instr) = instr

/- Each frame below is said twice: byte by byte of memory, and by an equation that lists every field that
may differ. -/

/-- The instruction completes and writes `b` to `V[x]` and nothing else. -/
def CompletesWriting (instr : Instr) (s : State) (x : Reg) (b : Byte) : Prop :=
  ∃ t, exec instr s = .next t ∧ t.reg x = b ∧ (∀ r, r ≠ x → t.reg r = s.reg r) ∧
    (∀ a, t.readByte a = s.readByte a) ∧ t = { s with v := t.v, status := some .completed }

/-- The instruction completes, writes `b` to `V[x]` and then the flag `f` to VF, where it replaces data
written to VF (R23), and nothing else. -/
def CompletesWithFlag (instr : Instr) (s : State) (x : Reg) (b : Byte) (f : Prop) : Prop :=
  ∃ t, exec instr s = .next t ∧ (x ≠ VF → t.reg x = b) ∧ (f → t.reg VF = 0x01) ∧
    (¬ f → t.reg VF = 0x00) ∧ (∀ r, r ≠ x → r ≠ VF → t.reg r = s.reg r) ∧
    (∀ a, t.readByte a = s.readByte a) ∧ t = { s with v := t.v, status := some .completed }

/-- The instruction completes and passes over one more word exactly where `c` holds (R110). -/
def CompletesSkipping (instr : Instr) (s : State) (c : Prop) : Prop :=
  ∃ t, exec instr s = .next t ∧ (c → t.pc = s.pc + 2) ∧ (¬ c → t.pc = s.pc) ∧
    (∀ a, t.readByte a = s.readByte a) ∧ t = { s with pc := t.pc, status := some .completed }

/-- The instruction takes the fault of R211: PC and the record hold its own address, and nothing else
changes. -/
def FaultsWith (instr : Instr) (s : State) (cause : FaultCause) : Prop :=
  exec instr s = .next
    { s with pc := s.pc - 2, fault := some { pc := s.pc - 2, cause := cause }, status := some .faulted }

end Sys2Proof.Machine
end

