-- ==== Sys2Proof/Certificates/Slice0/Obligations.lean ====
section
/-!
DEFINITION. The statements for the provers. A statement about an instruction runs `exec` on the state
after fetch, where PC is two past the instruction's own address (spec/30_encoding.md R81). A frame is
said by an equation `t = s with …` that lists every field that may differ.
-/
open Sys2Proof Sys2Proof.Machine

/-! ## Encoding and decoding -/

/-- R73, a sanity statement: words written out from the opcode map decode to their instructions. Rests
on the spec's own decision D2. -/
def Obligations.SampleWordsDecode : Prop :=
  decode 0x00E0 = .cls ∧ decode 0x00EE = .ret ∧ decode 0x1206 = .jp 0x206 ∧
  decode 0x3307 = .seImm 3 0x07 ∧ decode 0x6005 = .ldImm 0 0x05 ∧ decode 0x8AB4 = .addReg 0xA 0xB ∧
  decode 0x8AB8 = .nop8 0xA 0xB 0x8 ∧ decode 0xA300 = .ldI 0x300 ∧ decode 0xC30F = .rnd 3 0x0F ∧
  decode 0xD015 = .drw 0 1 0x5 ∧ decode 0xE59E = .skp 5 ∧ decode 0xF50A = .ldVxK 5 ∧
  decode 0xF155 = .storeRegs 1

/-- R71, R73: no bit of a well-formed instruction's encoding is dropped by the decoder. Rests on the
spec's own decision D2. -/
def Obligations.DecodeOfEncode : Prop :=
  ∀ i : Instr, i.wellFormed = true → decode (encode i) = i

/-- R76: every word has exactly one meaning, a well-formed one, and is that meaning's encoding. Rests on
the spec's own decision D2. -/
def Obligations.EncodeOfDecode : Prop :=
  ∀ w : Word, (decode w).wellFormed = true ∧ encode (decode w) = w

/-- R74: decoding selects the one row of R73 with `w AND mask = match`; a word no row matches is an
undefined encoding. Rests on the spec's own decision D2. -/
def Obligations.DecodeSelectsTheUniqueRow : Prop :=
  (∀ (w : Word) (r : OpcodeRow),
    (decode w).row = some r ↔ r ∈ opcodeRows ∧ w &&& r.mask = r.pattern) ∧
  (∀ w : Word, (decode w).isNoOp = true ↔ ∀ r ∈ opcodeRows, w &&& r.mask ≠ r.pattern)

/-- R75, R82: every undefined encoding completes with PC advanced by the fetch and nothing else changed;
the six instructions are `nop0`, `nop5`, `nop8`, `nop9`, `nopE`, `nopF`. Rests on the spec's own
decision D21. -/
def Obligations.UndefinedWordsRunAsNoOps : Prop :=
  (∀ (s : State) (nnn : BitVec 12) (x y : Reg) (n : BitVec 4) (nn : Byte),
    ∀ i ∈ [Instr.nop0 nnn, .nop5 x y n, .nop8 x y n, .nop9 x y n, .nopE x nn, .nopF x nn],
      exec i s = .next { s with status := some .completed }) ∧
  (∀ (s : State) (keys : Keypad) (rnd : Byte) (fci : Nat) (w : Word), s.running → s.fetches w →
    (∀ r ∈ opcodeRows, w &&& r.mask ≠ r.pattern) →
      cycle keys rnd fci s = .next { s with
        pc := s.pc + 2, keys := keys, rnd := rnd, fci := fci, status := some .completed })

/-! ## Fetch, the cycle and the step -/

/-- R80, R81, R224: where the core runs and the two bytes at PC decode to `i`, a step is `exec i` with
PC past the word and the cycle's inputs latched, followed by what the scheduler does after a cycle.
Rests on the spec's own decision D1. -/
def Obligations.StepRunsTheDecodedInstruction : Prop :=
  ∀ (s t : State) (i : Instr) (rest : List Byte), s.running → s.pc.toNat + 1 < 4096 →
    decodeBytes [s.readByte s.pc.toNat, s.readByte (s.pc.toNat + 1)] = .ok (i, rest) →
    exec i { s.consumeInput with pc := s.pc + 2, keys := s.nextKeys, rnd := s.nextRnd } = .next t →
      step s = .next (endCycle t)

/-- R56, R211, R212: a fetch with PC + 1 at or past 4096 faults; the record holds that PC and no word,
and nothing else changes. Rests on the spec's own decisions D8 and D31. -/
def Obligations.FetchPastTheEndFaults : Prop :=
  ∀ (s : State) (keys : Keypad) (rnd : Byte) (fci : Nat), s.running → 4096 ≤ s.pc.toNat + 1 →
    cycle keys rnd fci s = .next { s with
      fault := some { pc := s.pc, cause := .fetchOutOfRange }, status := some .faulted }

/-- R56, R57: a word placed at PC is the word fetched, its high byte at the lower address, and PC moves by
two. -/
def Obligations.WordPlacedIsFetchedBigEndian : Prop :=
  ∀ (s : State) (w : Word), Memory.wf s.config.font s.mem = true → s.pc.toNat + 1 < 4096 →
    (s.withFetchWord 16 w.toNat).readByte s.pc.toNat = BitVec.ofNat 8 (w.toNat / 256) ∧
    (s.withFetchWord 16 w.toNat).readByte (s.pc.toNat + 1) = BitVec.ofNat 8 (w.toNat % 256) ∧
    fetch (s.withFetchWord 16 w.toNat) =
      some (w, { s.withFetchWord 16 w.toNat with pc := s.pc + 2 })

/-- R63: a block store over the next instruction's bytes is seen by the very next fetch. -/
def Obligations.StoredCodeIsFetched : Prop :=
  ∀ (s t : State) (x hi lo : Reg), Memory.wf s.config.font s.mem = true →
    s.i.toNat + x.val < 4096 → hi.val + 1 = lo.val → lo ≤ x → s.pc.toNat = s.i.toNat + hi.val →
    exec (.storeRegs x) s = .next t →
      fetch t = some (wordOfBytes (s.reg hi) (s.reg lo), { t with pc := s.pc + 2 })

/-- R35, R223: while the core is faulted or not initialised, a cycle changes nothing and returns
`Halted`, and a timer tick changes nothing. Rests on the spec's own decisions D8, D27 and D33. -/
def Obligations.HaltedCoreDoesNothing : Prop :=
  ∀ (s : State) (keys : Keypad) (rnd : Byte) (fci : Nat), s.init = false ∨ s.fault ≠ none →
    cycle keys rnd fci s = .next { s with status := some .halted } ∧ timerTick s = s

/-- R211, R220: a halted core stays as it is for any number of steps in which the host takes no action;
only what the platform is handed and the environment's own fields move. Rests on the spec's own
decisions D8 and D27. -/
def Obligations.HaltedCoreStaysHalted : Prop :=
  ∀ (k : Nat) (s t : State), s.init = false ∨ s.fault ≠ none → s.hostActions = [] →
    Sys2Proof.core.run k s = .next t →
      t = { s with
        fci := t.fci, inputs := t.inputs, draws := t.draws, status := t.status,
        presented := t.presented }

/-! ## Arithmetic and logic -/

/-- R120, R122: 6XNN writes NN and 8XY0 writes Vy to Vx, and nothing else changes. -/
def Obligations.LoadAndCopyResults : Prop :=
  ∀ (s : State) (x y : Reg) (nn : Byte),
    (HasWord (.ldImm x nn) (0x6000 + 256 * x.val + nn.toNat) ∧
      CompletesWriting (.ldImm x nn) s x nn) ∧
    (HasWord (.ldReg x y) (0x8000 + 256 * x.val + 16 * y.val) ∧
      CompletesWriting (.ldReg x y) s x (s.reg y))

/-- R121 (the spec's own decision D20): 7XNN adds modulo 256 and sets no flag; nothing but Vx changes. -/
def Obligations.AddImmediateWrapsWithoutAFlag : Prop :=
  ∀ (s : State) (x : Reg) (nn : Byte),
    HasWord (.addImm x nn) (0x7000 + 256 * x.val + nn.toNat) ∧
      CompletesWriting (.addImm x nn) s x (BitVec.ofNat 8 ((s.reg x).toNat + nn.toNat))

/-- R123 to R126: 8XY1, 8XY2 and 8XY3 write the logic result; with `RESET_VF_ON_LOGIC` they then write
0x00 to VF, and without it VF is left alone unless it is Vx. -/
def Obligations.LogicResultsAndQuirk : Prop :=
  ∀ (s : State) (x y : Reg),
    HasWord (.orReg x y) (0x8001 + 256 * x.val + 16 * y.val) ∧
    HasWord (.andReg x y) (0x8002 + 256 * x.val + 16 * y.val) ∧
    HasWord (.xorReg x y) (0x8003 + 256 * x.val + 16 * y.val) ∧
    (s.config.resetVfOnLogic = false →
      CompletesWriting (.orReg x y) s x (s.reg x ||| s.reg y) ∧
      CompletesWriting (.andReg x y) s x (s.reg x &&& s.reg y) ∧
      CompletesWriting (.xorReg x y) s x (s.reg x ^^^ s.reg y)) ∧
    (s.config.resetVfOnLogic = true →
      CompletesWithFlag (.orReg x y) s x (s.reg x ||| s.reg y) False ∧
      CompletesWithFlag (.andReg x y) s x (s.reg x &&& s.reg y) False ∧
      CompletesWithFlag (.xorReg x y) s x (s.reg x ^^^ s.reg y) False)

/-- R127, R128, R130: 8XY4, 8XY5 and 8XY7 write the sum or difference modulo 256, then VF: carry for the
sum, no borrow (minuend at least subtrahend) for the differences, computed on the operands before any
write. -/
def Obligations.AddSubtractResultsAndFlags : Prop :=
  ∀ (s : State) (x y : Reg),
    (HasWord (.addReg x y) (0x8004 + 256 * x.val + 16 * y.val) ∧
      CompletesWithFlag (.addReg x y) s x
        (BitVec.ofNat 8 ((s.reg x).toNat + (s.reg y).toNat))
        (255 < (s.reg x).toNat + (s.reg y).toNat)) ∧
    (HasWord (.subReg x y) (0x8005 + 256 * x.val + 16 * y.val) ∧
      CompletesWithFlag (.subReg x y) s x
        (BitVec.ofNat 8 ((s.reg x).toNat + 256 - (s.reg y).toNat))
        ((s.reg y).toNat ≤ (s.reg x).toNat)) ∧
    (HasWord (.subnReg x y) (0x8007 + 256 * x.val + 16 * y.val) ∧
      CompletesWithFlag (.subnReg x y) s x
        (BitVec.ofNat 8 ((s.reg y).toNat + 256 - (s.reg x).toNat))
        ((s.reg x).toNat ≤ (s.reg y).toNat))

/-- R129, R131: 8XY6 and 8XYE write Vy shifted by one to Vx, whatever Vx held, then the bit shifted out
to VF. -/
def Obligations.ShiftResultsAndFlags : Prop :=
  ∀ (s : State) (x y : Reg),
    (HasWord (.shrReg x y) (0x8006 + 256 * x.val + 16 * y.val) ∧
      CompletesWithFlag (.shrReg x y) s x (BitVec.ofNat 8 ((s.reg y).toNat / 2))
        ((s.reg y).toNat % 2 = 1)) ∧
    (HasWord (.shlReg x y) (0x800E + 256 * x.val + 16 * y.val) ∧
      CompletesWithFlag (.shlReg x y) s x (BitVec.ofNat 8 ((s.reg y).toNat * 2))
        (128 ≤ (s.reg y).toNat))

/-- R200: CXNN writes the cycle's random input masked by NN to Vx and nothing else, whatever that input
is. Rests on the spec's own decision D19. -/
def Obligations.RandomByteIsMasked : Prop :=
  ∀ (s : State) (x : Reg) (nn : Byte),
    HasWord (.rnd x nn) (0xC000 + 256 * x.val + nn.toNat) ∧
      CompletesWriting (.rnd x nn) s x (s.rnd &&& nn)

/-! ## Control flow -/

/-- R106, R107: 3XNN and 4XNN add 2 to PC exactly where Vx equals, or differs from, NN; nothing else
changes. -/
def Obligations.SkipsOnImmediates : Prop :=
  ∀ (s : State) (x : Reg) (nn : Byte),
    (HasWord (.seImm x nn) (0x3000 + 256 * x.val + nn.toNat) ∧
      CompletesSkipping (.seImm x nn) s (s.reg x = nn)) ∧
    (HasWord (.sneImm x nn) (0x4000 + 256 * x.val + nn.toNat) ∧
      CompletesSkipping (.sneImm x nn) s (s.reg x ≠ nn))

/-- R108, R109 (strict decoding is the spec's own decision D21): 5XY0 and 9XY0 add 2 to PC exactly where
Vx equals, or differs from, Vy; nothing else changes. -/
def Obligations.SkipsOnRegisters : Prop :=
  ∀ (s : State) (x y : Reg),
    (HasWord (.seReg x y) (0x5000 + 256 * x.val + 16 * y.val) ∧
      CompletesSkipping (.seReg x y) s (s.reg x = s.reg y)) ∧
    (HasWord (.sneReg x y) (0x9000 + 256 * x.val + 16 * y.val) ∧
      CompletesSkipping (.sneReg x y) s (s.reg x ≠ s.reg y))

/-- R104: 1NNN sets PC to NNN, odd or not and in range or not, and changes nothing else. -/
def Obligations.JumpSetsPc : Prop :=
  ∀ (s : State) (nnn : BitVec 12), HasWord (.jp nnn) (0x1000 + nnn.toNat) ∧
    ∃ t, exec (.jp nnn) s = .next t ∧ t.pc.toNat = nnn.toNat ∧
      (∀ a, t.readByte a = s.readByte a) ∧ t = { s with pc := t.pc, status := some .completed }

/-- R105 (the spec's own decision D18): BNNN sets PC to NNN + V0, a sum that is never truncated, and
changes nothing else. -/
def Obligations.JumpWithOffsetAddsV0 : Prop :=
  ∀ (s : State) (nnn : BitVec 12), HasWord (.jpV0 nnn) (0xB000 + nnn.toNat) ∧
    ∃ t, exec (.jpV0 nnn) s = .next t ∧ t.pc.toNat = nnn.toNat + (s.reg 0).toNat ∧
      (∀ a, t.readByte a = s.readByte a) ∧ t = { s with pc := t.pc, status := some .completed }

/-- R102, R103: 2NNN pushes the address after it and jumps; with 16 entries on the stack the policy
decides, and stack and depth stay as they are. Rests on the spec's own decision D11. -/
def Obligations.CallPushesTheReturnAddress : Prop :=
  ∀ (s : State) (nnn : BitVec 12),
    HasWord (.call nnn) (0x2000 + nnn.toNat) ∧
    (s.sp.val < 16 → ∃ t, exec (.call nnn) s = .next t ∧ t.sp.val = s.sp.val + 1 ∧
      (∀ k : Fin 16, t.stack[k] = if k.val = s.sp.val then s.pc else s.stack[k]) ∧
      t.pc.toNat = nnn.toNat ∧
      (∀ a, t.readByte a = s.readByte a) ∧
      t = { s with pc := t.pc, sp := t.sp, stack := t.stack, status := some .completed }) ∧
    (s.sp.val = 16 →
      (s.config.stackOverflow = .ignore →
        exec (.call nnn) s = .next { s with status := some .completed }) ∧
      (s.config.stackOverflow = .jumpNoPush →
        ∃ t, exec (.call nnn) s = .next t ∧ t.pc.toNat = nnn.toNat ∧
          (∀ a, t.readByte a = s.readByte a) ∧
          t = { s with pc := t.pc, status := some .completed }) ∧
      (s.config.stackOverflow = .fault →
        FaultsWith (.call nnn) s (.stackOverflow (BitVec.ofNat 16 (0x2000 + nnn.toNat)))))

/-- R100, R101: 00EE pops the return address into PC; with an empty stack the policy decides. Rests on
the spec's own decision D12. -/
def Obligations.RetPopsTheReturnAddress : Prop :=
  ∀ s : State,
    HasWord .ret 0x00EE ∧
    (∀ k : Fin 16, s.sp.val = k.val + 1 → ∃ t, exec .ret s = .next t ∧ t.pc = s.stack[k] ∧
      t.sp.val = k.val ∧ (∀ a, t.readByte a = s.readByte a) ∧
      t = { s with pc := t.pc, sp := t.sp, status := some .completed }) ∧
    (s.sp.val = 0 →
      (s.config.retEmpty = .ignore → exec .ret s = .next { s with status := some .completed }) ∧
      (s.config.retEmpty = .fault → FaultsWith .ret s (.stackUnderflow 0x00EE)))

/-- R111: RET returns to the address after the CALL and leaves the depth the CALL found, whatever ran in
between, as long as the stack is as the CALL left it. -/
def Obligations.ReturnComesBackAfterTheCall : Prop :=
  ∀ (s t u : State) (nnn : BitVec 12), s.sp.val < 16 → exec (.call nnn) s = .next t →
    u.sp = t.sp → u.stack = t.stack →
      ∃ w, exec .ret u = .next w ∧ w.pc = s.pc ∧ w.sp = s.sp

/-! ## Index register and memory -/

/-- R140: ANNN sets I to NNN and changes nothing else. -/
def Obligations.SetIndexWritesI : Prop :=
  ∀ (s : State) (nnn : BitVec 12), HasWord (.ldI nnn) (0xA000 + nnn.toNat) ∧
    ∃ t, exec (.ldI nnn) s = .next t ∧ t.i.toNat = nnn.toNat ∧
      (∀ a, t.readByte a = s.readByte a) ∧ t = { s with i := t.i, status := some .completed }

/-- R141 (width and flag are the spec's own decisions D9, D10): FX1E adds Vx to I modulo 2^16 and then
sets VF by the untruncated sum; nothing else changes. -/
def Obligations.AddToIndexAndFlag : Prop :=
  ∀ (s : State) (x : Reg), HasWord (.addI x) (0xF01E + 256 * x.val) ∧
    ∃ t, exec (.addI x) s = .next t ∧
      t.i.toNat = (s.i.toNat + (s.reg x).toNat) % 65536 ∧
      (0x1000 ≤ s.i.toNat + (s.reg x).toNat → t.reg VF = 0x01) ∧
      (s.i.toNat + (s.reg x).toNat < 0x1000 → t.reg VF = 0x00) ∧
      (∀ r, r ≠ VF → t.reg r = s.reg r) ∧
      (∀ a, t.readByte a = s.readByte a) ∧
      t = { s with i := t.i, v := t.v, status := some .completed }

/-- R142: FX29 points I at 0x050 + 5·d, the digit d being Vx or its low nibble as `FONT_DIGIT_POLICY`
says; nothing else changes. Rests on the spec's own decision D14. -/
def Obligations.FontGlyphAddress : Prop :=
  ∀ (s : State) (x : Reg), HasWord (.ldF x) (0xF029 + 256 * x.val) ∧
    ∃ t, exec (.ldF x) s = .next t ∧
      (s.config.fontDigit = .lowNibble → t.i.toNat = 0x050 + 5 * ((s.reg x).toNat % 16)) ∧
      (s.config.fontDigit = .fullByte → t.i.toNat = 0x050 + 5 * (s.reg x).toNat) ∧
      (∀ a, t.readByte a = s.readByte a) ∧
      t = { s with i := t.i, status := some .completed }

/-- R143: FX33 stores hundreds, tens and units at I, I + 1 and I + 2 and leaves every other byte, I and
everything else alone; with an address out of range it faults and writes nothing. Rests on the spec's
own decision D7. -/
def Obligations.BcdStore : Prop :=
  ∀ (s : State) (x : Reg), Memory.wf s.config.font s.mem = true →
    HasWord (.ldB x) (0xF033 + 256 * x.val) ∧
    (s.i.toNat + 2 < 4096 → ∃ t, exec (.ldB x) s = .next t ∧
      (t.readByte s.i.toNat).toNat = (s.reg x).toNat / 100 ∧
      (t.readByte (s.i.toNat + 1)).toNat = (s.reg x).toNat / 10 % 10 ∧
      (t.readByte (s.i.toNat + 2)).toNat = (s.reg x).toNat % 10 ∧
      (∀ a, a < s.i.toNat ∨ s.i.toNat + 3 ≤ a → t.readByte a = s.readByte a) ∧
      t = { s with mem := t.mem, status := some .completed }) ∧
    (4096 ≤ s.i.toNat + 2 → FaultsWith (.ldB x) s
      (.dataOutOfRange (BitVec.ofNat 16 (0xF033 + 256 * x.val)) (max s.i.toNat 4096)))

/-- R144: FX55 stores V0 to Vx from I on, leaves every other byte alone and advances I by x + 1; with an
address out of range it faults and writes nothing. Rests on the spec's own decisions D7 and D9. -/
def Obligations.BlockStore : Prop :=
  ∀ (s : State) (x : Reg), Memory.wf s.config.font s.mem = true →
    HasWord (.storeRegs x) (0xF055 + 256 * x.val) ∧
    (s.i.toNat + x.val < 4096 → ∃ t, exec (.storeRegs x) s = .next t ∧
      (∀ r : Reg, r ≤ x → t.readByte (s.i.toNat + r.val) = s.reg r) ∧
      (∀ a, a < s.i.toNat ∨ s.i.toNat + x.val < a → t.readByte a = s.readByte a) ∧
      t.i.toNat = s.i.toNat + x.val + 1 ∧
      t = { s with mem := t.mem, i := t.i, status := some .completed }) ∧
    (4096 ≤ s.i.toNat + x.val → FaultsWith (.storeRegs x) s
      (.dataOutOfRange (BitVec.ofNat 16 (0xF055 + 256 * x.val)) (max s.i.toNat 4096)))

/-- R145: FX65 loads V0 to Vx from I on, leaves the registers above x alone and advances I by x + 1, and
memory is unchanged; with an address out of range it faults and writes nothing. Rests on the spec's own
decisions D7 and D9. -/
def Obligations.BlockLoad : Prop :=
  ∀ (s : State) (x : Reg),
    HasWord (.loadRegs x) (0xF065 + 256 * x.val) ∧
    (s.i.toNat + x.val < 4096 → ∃ t, exec (.loadRegs x) s = .next t ∧
      (∀ r : Reg, r ≤ x → t.reg r = s.readByte (s.i.toNat + r.val)) ∧
      (∀ r : Reg, x < r → t.reg r = s.reg r) ∧
      t.i.toNat = s.i.toNat + x.val + 1 ∧
      (∀ a, t.readByte a = s.readByte a) ∧
      t = { s with v := t.v, i := t.i, status := some .completed }) ∧
    (4096 ≤ s.i.toNat + x.val → FaultsWith (.loadRegs x) s
      (.dataOutOfRange (BitVec.ofNat 16 (0xF065 + 256 * x.val)) (max s.i.toNat 4096)))

/-- R54, R144, R145: registers stored by FX55 come back by an FX65 from the same I, whatever the
registers held in between. -/
def Obligations.BlockStoreThenLoadRestores : Prop :=
  ∀ (s t : State) (x : Reg) (v : Vector Byte 16), Memory.wf s.config.font s.mem = true →
    s.i.toNat + x.val < 4096 → exec (.storeRegs x) s = .next t →
      ∃ u, exec (.loadRegs x) { t with i := s.i, v := v } = .next u ∧
        (∀ r : Reg, r ≤ x → u.reg r = s.reg r) ∧ (∀ r : Reg, x < r → u.reg r = v[r]) ∧
        u.mem = t.mem ∧ u.i = t.i

/-! ## Display -/

/-- R160: 00E0 turns every pixel off and changes nothing else, with no wait for the frame. -/
def Obligations.ClearTurnsEveryPixelOff : Prop :=
  ∀ s : State, HasWord .cls 0x00E0 ∧ ∃ t, exec .cls s = .next t ∧
    (∀ (r : Fin 32) (c : Fin 64), t.fb.pixel r c = false) ∧
    (∀ a, t.readByte a = s.readByte a) ∧
    t = { s with fb := t.fb, status := some .completed }

/-- R161 to R166: a draw that waits retries and writes nothing but PC; one whose rows are all in range
inverts exactly the pixels its set bits land on and sets VF to whether one of them was on; one with a
row out of range faults and writes nothing. Rests on the spec's own decisions D7, D16, D17 and D25. -/
def Obligations.DrawXorsTheSprite : Prop :=
  ∀ (s : State) (x y : Reg) (n : BitVec 4) (rows : Nat),
    rows = (if s.config.wrapSprites = true then n.toNat
      else min n.toNat (32 - (s.reg y).toNat % 32)) →
    HasWord (.drw x y n) (0xD000 + 256 * x.val + 16 * y.val + n.toNat) ∧
    (s.config.waitForVblank = true ∧ 0 < s.fci →
      exec (.drw x y n) s = .next { s with pc := s.pc - 2, status := some .retry }) ∧
    (s.config.waitForVblank = false ∨ s.fci = 0 →
      (rows = 0 ∨ s.i.toNat + rows ≤ 4096 → ∃ t, exec (.drw x y n) s = .next t ∧
        (∀ r c, t.fb.pixel r c ≠ s.fb.pixel r c ↔ s.spriteCovers x y n r c) ∧
        ((∃ r c, s.spriteCovers x y n r c ∧ s.fb.pixel r c = true) → t.reg VF = 0x01) ∧
        ((¬ ∃ r c, s.spriteCovers x y n r c ∧ s.fb.pixel r c = true) → t.reg VF = 0x00) ∧
        (∀ r, r ≠ VF → t.reg r = s.reg r) ∧
        (∀ a, t.readByte a = s.readByte a) ∧
        t = { s with fb := t.fb, v := t.v, status := some .completed }) ∧
      (0 < rows ∧ 4096 < s.i.toNat + rows → FaultsWith (.drw x y n) s
        (.dataOutOfRange (BitVec.ofNat 16 (0xD000 + 256 * x.val + 16 * y.val + n.toNat))
          (max s.i.toNat 4096))))

/-- R165: the identical draw twice restores every framebuffer, and the second sets VF exactly where some
drawn bit fell on a pixel that was off before the first. -/
def Obligations.DrawTwiceRestoresTheFramebuffer : Prop :=
  ∀ (s t : State) (x y : Reg) (n : BitVec 4), x ≠ VF → y ≠ VF →
    exec (.drw x y n) s = .next t → t.status = some .completed →
      ∃ u, exec (.drw x y n) t = .next u ∧ u.status = some .completed ∧ u.fb = s.fb ∧
        ((∃ r c, s.spriteCovers x y n r c ∧ s.fb.pixel r c = false) → u.reg VF = 0x01) ∧
        ((¬ ∃ r c, s.spriteCovers x y n r c ∧ s.fb.pixel r c = false) → u.reg VF = 0x00)

/-- R163, R225: with the display wait on, a draw reached after the first cycle of a tick with budget
left only counts the cycle: PC, pixels, registers and timers stay and the next cycle of the tick finds
the same draw. Rests on the spec's own decision D25. -/
def Obligations.WaitingDrawOnlyCountsTheCycle : Prop :=
  ∀ (s : State) (w : Word) (x y : Reg) (n : BitVec 4), s.running → s.fetches w →
    decode w = .drw x y n → s.config.waitForVblank = true → 0 < s.fci →
    s.fci + 1 < s.config.budget →
      step s = .next { s.consumeInput with
        keys := s.nextKeys, rnd := s.nextRnd, fci := s.fci + 1, status := some .retry }

/-! ## Timers and keys -/

/-- R180, R181, R182: FX07 reads the delay timer, FX15 and FX18 write the delay and the sound timer, and
nothing else changes. The value written is first decremented by the next timer tick, after which the
sound is on exactly where more than 1 was written. -/
def Obligations.TimerInstructions : Prop :=
  ∀ (s : State) (x : Reg),
    (HasWord (.ldVxDt x) (0xF007 + 256 * x.val) ∧ CompletesWriting (.ldVxDt x) s x s.dt) ∧
    (HasWord (.ldDtVx x) (0xF015 + 256 * x.val) ∧ ∃ t, exec (.ldDtVx x) s = .next t ∧
      t.dt = s.reg x ∧ (s.running → (timerTick t).dt.toNat = (s.reg x).toNat - 1) ∧
      (∀ a, t.readByte a = s.readByte a) ∧
      t = { s with dt := t.dt, status := some .completed }) ∧
    (HasWord (.ldStVx x) (0xF018 + 256 * x.val) ∧ ∃ t, exec (.ldStVx x) s = .next t ∧
      t.st = s.reg x ∧ (s.running → (timerTick t).st.toNat = (s.reg x).toNat - 1 ∧
        ((timerTick t).soundOn = true ↔ 1 < (s.reg x).toNat)) ∧
      (∀ a, t.readByte a = s.readByte a) ∧
      t = { s with st := t.st, status := some .completed })

/-- R183, R184, R185: EX9E and EXA1 test the key Vx of this cycle's snapshot; above 15 the policy takes
the low nibble or raises the fault. Rests on the spec's own decision D13. -/
def Obligations.KeyTestsFollowTheSnapshot : Prop :=
  ∀ (s : State) (x : Reg),
    HasWord (.skp x) (0xE09E + 256 * x.val) ∧ HasWord (.sknp x) (0xE0A1 + 256 * x.val) ∧
    (∀ k : Key, k.val = (s.reg x).toNat ∨
        (s.config.keyIndex = .lowNibble ∧ k.val = (s.reg x).toNat % 16) →
      CompletesSkipping (.skp x) s (s.keys[k] = true) ∧
      CompletesSkipping (.sknp x) s (s.keys[k] = false)) ∧
    (15 < (s.reg x).toNat ∧ s.config.keyIndex = .fault →
      FaultsWith (.skp x) s
        (.keyIndexOutOfRange (BitVec.ofNat 16 (0xE09E + 256 * x.val)) (s.reg x)) ∧
      FaultsWith (.sknp x) s
        (.keyIndexOutOfRange (BitVec.ofNat 16 (0xE0A1 + 256 * x.val)) (s.reg x)))

/-- R186: with no key latched FX0A latches the smallest key down, if any, and retries; with a latched
key still down it retries; with the latched key up it writes the key to Vx, empties the latch and
completes. Rests on the spec's own decision D15. -/
def Obligations.KeyWaitLatchesThenCommits : Prop :=
  ∀ (s : State) (x : Reg), HasWord (.ldVxK x) (0xF00A + 256 * x.val) ∧
    (s.pending = none → ∃ t, exec (.ldVxK x) s = .next t ∧
      (∀ k, t.pending = some k ↔ s.keys[k] = true ∧ ∀ j < k, s.keys[j] = false) ∧
      t = { s with pc := s.pc - 2, pending := t.pending, status := some .retry }) ∧
    (∀ k, s.pending = some k → s.keys[k] = true →
      exec (.ldVxK x) s = .next { s with pc := s.pc - 2, status := some .retry }) ∧
    (∀ k, s.pending = some k → s.keys[k] = false → ∃ t, exec (.ldVxK x) s = .next t ∧
      (t.reg x).toNat = k.val ∧ (∀ r, r ≠ x → t.reg r = s.reg r) ∧
      (∀ a, t.readByte a = s.readByte a) ∧
      t = { s with v := t.v, pending := none, status := some .completed })

/-- R186: with no key down, now or in any listed input, an FX0A with nothing latched blocks for ever: PC,
the latch and the registers stay through any number of steps in which the host takes no action. -/
def Obligations.KeyWaitBlocksWithNoKeyDown : Prop :=
  ∀ (k : Nat) (s t : State) (w : Word) (x : Reg), s.running → s.fetches w → decode w = .ldVxK x →
    s.pending = none → s.hostActions = [] → (∀ j : Key, s.keys[j] = false) →
    (∀ c ∈ s.inputs, ∀ j : Key, c.keys[j] = false) → Sys2Proof.core.run k s = .next t →
      t.pc = s.pc ∧ t.pending = none ∧ t.v = s.v ∧ t.mem = s.mem ∧ t.fault = none

/-! ## The transactions -/

/-- R223: a timer tick of a running core decrements each timer by one, floored at zero, and changes
nothing else; a halted core's timers do not move. Rests on the spec's own decision D33. -/
def Obligations.TimerTickCountsDown : Prop :=
  ∀ s : State,
    (s.init = true ∧ s.fault = none →
      (timerTick s).dt.toNat = s.dt.toNat - 1 ∧ (timerTick s).st.toNat = s.st.toNat - 1 ∧
      timerTick s = { s with dt := (timerTick s).dt, st := (timerTick s).st }) ∧
    (s.init = false ∨ s.fault ≠ none → timerTick s = s)

/-- R224, R225: after a cycle the scheduler goes on with the next frame-cycle index while budget is left
and no cycle has faulted or found the core halted; otherwise it ticks the timers, hands over FB and
`sound_on` of the decremented timer, and the next tick starts at index 0. Rests on the spec's own
decision D25. -/
def Obligations.SchedulerEndsTheTick : Prop :=
  ∀ s : State, s.hostActions = [] →
    (s.status ≠ some .faulted ∧ s.status ≠ some .halted ∧ s.fci + 1 < s.config.budget →
      endCycle s = { s with fci := s.fci + 1 }) ∧
    (s.status = some .faulted ∨ s.status = some .halted ∨ s.config.budget ≤ s.fci + 1 →
      endCycle s = { s with
        dt := (timerTick s).dt, st := (timerTick s).st, fci := 0,
        presented := some { fb := s.fb, soundOn := decide (0 < (timerTick s).st.toNat) } })

/-- R233, R246: a load the host makes takes effect only between two ticks: while the tick goes on nothing
of it shows, and at its end the presentation is handed over first and the next tick starts with the loaded
core. -/
def Obligations.HostLoadsOnlyBetweenTicks : Prop :=
  ∀ (s : State) (program : List Byte) (config : Configuration) (rest : List (List HostAction)),
    s.hostActions = [.load (some program) config] :: rest → program.length ≤ 3584 →
    60 ≤ config.ips →
    (s.tickEnds = false → endCycle s = { s with fci := s.fci + 1 }) ∧
    (s.tickEnds = true →
      (endCycle s).config = config ∧ (endCycle s).pc = 0x0200 ∧ (endCycle s).fault = none ∧
      (endCycle s).init = true ∧ (endCycle s).fci = 0 ∧ (endCycle s).hostActions = rest ∧
      (endCycle s).presented =
        some { fb := s.fb, soundOn := decide (0 < (timerTick s).st.toNat) })

/-- R240, R243, R39, R51: a load that passes its checks leaves the configuration, the program at 0x200
verbatim, the font at 0x050, every other byte 0x00, and every register, timer, pixel and latch at its
reset value. Rests on the spec's own decisions D4, D5 and D23. -/
def Obligations.LoadInitialisesTheCore : Prop :=
  ∀ (s : State) (program : List Byte) (config : Configuration), program.length ≤ 3584 →
    60 ≤ config.ips → ∃ t, load (some program) config s = t ∧
      t.config = config ∧
      (∀ k (h : k < program.length), t.readByte (0x200 + k) = program[k]) ∧
      (∀ k : Fin 80, t.readByte (0x050 + k.val) = config.font[k]) ∧
      (∀ a, (a < 0x050 ∨ 0x0A0 ≤ a) → (a < 0x200 ∨ 0x200 + program.length ≤ a) →
        t.readByte a = 0x00) ∧
      (∀ r, t.reg r = 0x00) ∧ t.i = 0x0000 ∧ t.pc = 0x0200 ∧ t.sp.val = 0 ∧
      (∀ k : Fin 16, t.stack[k] = 0x0000) ∧ t.dt = 0x00 ∧ t.st = 0x00 ∧
      (∀ r c, t.fb.pixel r c = false) ∧ (∀ k : Key, t.keys[k] = false) ∧
      t.pending = none ∧ t.fault = none ∧ t.init = true ∧ t.lastLoad = some .ok

/-- R241, R242, R245: a `load` or `reset` that fails reports why and changes nothing else. Rests on the
spec's own decisions D23 and D27. -/
def Obligations.FailedLoadChangesNothing : Prop :=
  ∀ (s : State) (program : List Byte) (config : Configuration),
    load none config s = { s with lastLoad := some .romUnreadable } ∧
    (3584 < program.length →
      load (some program) config s = { s with lastLoad := some .programTooLarge }) ∧
    (program.length ≤ 3584 → config.ips < 60 →
      load (some program) config s = { s with lastLoad := some .configInvalid }) ∧
    (s.init = false →
      resetCore none s = { s with lastLoad := some .notLoaded } ∧
      resetCore (some program) s = { s with lastLoad := some .notLoaded }) ∧
    (s.init = true →
      resetCore none s = { s with lastLoad := some .romUnreadable } ∧
      (3584 < program.length →
        resetCore (some program) s = { s with lastLoad := some .programTooLarge }))

/-- R245: on a loaded core, `reset` does what `load` does with the configuration the core has. Rests on
the spec's own decision D27. -/
def Obligations.ResetIsLoadWithTheKeptConfiguration : Prop :=
  ∀ (s : State) (program : Option (List Byte)), s.init = true → 60 ≤ s.config.ips →
    resetCore program s = load program s.config s

/-- The model's own choice, log entries 1 and 2: the model's reset state is what a load of an empty
program with the configuration `Configuration.atReset` leaves of the core, from any state. -/
def Obligations.ResetStateIsAnEmptyLoad : Prop :=
  ∀ (s t : State), load (some []) Configuration.atReset s = t →
    State.reset.config = t.config ∧ State.reset.mem = t.mem ∧ State.reset.v = t.v ∧
    State.reset.i = t.i ∧ State.reset.pc = t.pc ∧ State.reset.sp = t.sp ∧
    State.reset.stack = t.stack ∧ State.reset.dt = t.dt ∧ State.reset.st = t.st ∧
    State.reset.fb = t.fb ∧ State.reset.keys = t.keys ∧ State.reset.pending = t.pending ∧
    State.reset.fault = t.fault ∧ State.reset.init = t.init

/-! ## Rules of the whole machine -/

/-- R83, R84, R85, R211: every instruction answers in one of three ways: it completes and leaves the
fault latch alone; it retries, which only DXYN and FX0A do, and writes nothing but PC and the key latch;
or it takes one fault, which writes nothing but PC and the record, and only the eight instructions with
a check of their own do. Rests on the spec's own decisions D8 and D31. -/
def Obligations.EveryInstructionAnswersAStatus : Prop :=
  ∀ (i : Instr) (s : State), ∃ t, exec i s = .next t ∧
    ((t.status = some .completed ∧ t.fault = s.fault) ∨
     (((∃ x y n, i = .drw x y n) ∨ ∃ x, i = .ldVxK x) ∧
        t = { s with pc := s.pc - 2, pending := t.pending, status := some .retry }) ∨
     ((i = .ret ∨ (∃ nnn, i = .call nnn) ∨ (∃ x, i = .skp x) ∨ (∃ x, i = .sknp x) ∨
        (∃ x, i = .ldB x) ∨ (∃ x, i = .storeRegs x) ∨ (∃ x, i = .loadRegs x) ∨
        ∃ x y n, i = .drw x y n) ∧
        ∃ cause, t = { s with
          pc := s.pc - 2, fault := some { pc := s.pc - 2, cause := cause },
          status := some .faulted }))

/-- R25, R29, R31, R34, R36, R59, R167: each piece of state outside the general registers is written only
by the instructions its rule names; the configuration, the inputs, the initialisation flag and what
belongs to the scheduler and the host are written by none. -/
def Obligations.OnlyTheNamedInstructionsWrite : Prop :=
  ∀ (i : Instr) (s t : State), exec i s = .next t →
    (t.fb ≠ s.fb → i = .cls ∨ ∃ x y n, i = .drw x y n) ∧
    (t.mem ≠ s.mem → (∃ x, i = .ldB x) ∨ ∃ x, i = .storeRegs x) ∧
    (t.i ≠ s.i → (∃ nnn, i = .ldI nnn) ∨ (∃ x, i = .addI x) ∨ (∃ x, i = .ldF x) ∨
      (∃ x, i = .storeRegs x) ∨ ∃ x, i = .loadRegs x) ∧
    (t.stack ≠ s.stack → ∃ nnn, i = .call nnn) ∧
    (t.sp ≠ s.sp → i = .ret ∨ ∃ nnn, i = .call nnn) ∧
    (t.dt ≠ s.dt → ∃ x, i = .ldDtVx x) ∧ (t.st ≠ s.st → ∃ x, i = .ldStVx x) ∧
    (t.pending ≠ s.pending → ∃ x, i = .ldVxK x) ∧
    t = { s with
      v := t.v, i := t.i, pc := t.pc, sp := t.sp, stack := t.stack, dt := t.dt, st := t.st,
      fb := t.fb, pending := t.pending, fault := t.fault, mem := t.mem, status := t.status }

/-- R21, R24: VF changes only in an instruction that sets it as a flag or names it as its data
destination. -/
def Obligations.VfChangesOnlyAsFlagOrDestination : Prop :=
  ∀ (i : Instr) (s t : State), exec i s = .next t → t.reg VF ≠ s.reg VF →
    (∃ x y, i = .orReg x y ∨ i = .andReg x y ∨ i = .xorReg x y ∨ i = .addReg x y ∨
      i = .subReg x y ∨ i = .shrReg x y ∨ i = .subnReg x y ∨ i = .shlReg x y) ∨
    (∃ x, i = .addI x) ∨ (∃ x y n, i = .drw x y n) ∨
    (∃ nn, i = .ldImm VF nn ∨ i = .addImm VF nn ∨ i = .rnd VF nn) ∨ (∃ y, i = .ldReg VF y) ∨
    i = .ldVxDt VF ∨ i = .ldVxK VF ∨ i = .loadRegs VF

/-- R27, R28: an instruction fetched below 4096 leaves PC at most 0x10FE, or at the address it pops. -/
def Obligations.PcIsAtMost10FEOrPopped : Prop :=
  ∀ (i : Instr) (s t : State), 2 ≤ s.pc.toNat → s.pc.toNat ≤ 4096 → exec i s = .next t →
    t.pc.toNat ≤ 0x10FE ∨ (i = .ret ∧ ∃ k : Fin 16, s.sp.val = k.val + 1 ∧ t.pc = s.stack[k])

/-- R76, R84: a step always answers a next state. -/
def Obligations.StepAlwaysAnswers : Prop := ∀ s : State, ∃ s', step s = .next s'

/-- The invariant holds at reset, whose configuration is the model's own choice (log entry 1), as the
canonical form of memory is (log entry 11). -/
def Obligations.InvariantHoldsAtReset : Prop := Inv State.reset

/-- R28, R100, R187, R211, R225, and the canonical form of memory, which is the model's own (log entry
11): every step keeps the invariant. -/
def Obligations.StepKeepsTheInvariant : Prop :=
  ∀ s s' : State, Inv s → step s = .next s' → Inv s'
end

