-- ==== Sys2Proof/Laws/State.lean ====
section
/-!
SUPPORT. One lemma per field per update of the state, true by unfolding the update, so that no later
proof unfolds a record update.
-/
namespace Sys2Proof.Machine

/-! ### State.setReg -/

@[simp] theorem State.setReg_i (s : State) (x : Reg) (b : Byte) :
    (s.setReg x b).i = s.i := rfl
@[simp] theorem State.setReg_pc (s : State) (x : Reg) (b : Byte) :
    (s.setReg x b).pc = s.pc := rfl
@[simp] theorem State.setReg_sp (s : State) (x : Reg) (b : Byte) :
    (s.setReg x b).sp = s.sp := rfl
@[simp] theorem State.setReg_stack (s : State) (x : Reg) (b : Byte) :
    (s.setReg x b).stack = s.stack := rfl
@[simp] theorem State.setReg_dt (s : State) (x : Reg) (b : Byte) :
    (s.setReg x b).dt = s.dt := rfl
@[simp] theorem State.setReg_st (s : State) (x : Reg) (b : Byte) :
    (s.setReg x b).st = s.st := rfl
@[simp] theorem State.setReg_fb (s : State) (x : Reg) (b : Byte) :
    (s.setReg x b).fb = s.fb := rfl
@[simp] theorem State.setReg_keys (s : State) (x : Reg) (b : Byte) :
    (s.setReg x b).keys = s.keys := rfl
@[simp] theorem State.setReg_pending (s : State) (x : Reg) (b : Byte) :
    (s.setReg x b).pending = s.pending := rfl
@[simp] theorem State.setReg_fault (s : State) (x : Reg) (b : Byte) :
    (s.setReg x b).fault = s.fault := rfl
@[simp] theorem State.setReg_init (s : State) (x : Reg) (b : Byte) :
    (s.setReg x b).init = s.init := rfl
@[simp] theorem State.setReg_mem (s : State) (x : Reg) (b : Byte) :
    (s.setReg x b).mem = s.mem := rfl
@[simp] theorem State.setReg_config (s : State) (x : Reg) (b : Byte) :
    (s.setReg x b).config = s.config := rfl
@[simp] theorem State.setReg_rnd (s : State) (x : Reg) (b : Byte) :
    (s.setReg x b).rnd = s.rnd := rfl
@[simp] theorem State.setReg_fci (s : State) (x : Reg) (b : Byte) :
    (s.setReg x b).fci = s.fci := rfl
@[simp] theorem State.setReg_inputs (s : State) (x : Reg) (b : Byte) :
    (s.setReg x b).inputs = s.inputs := rfl
@[simp] theorem State.setReg_draws (s : State) (x : Reg) (b : Byte) :
    (s.setReg x b).draws = s.draws := rfl
@[simp] theorem State.setReg_hostActions (s : State) (x : Reg) (b : Byte) :
    (s.setReg x b).hostActions = s.hostActions := rfl
@[simp] theorem State.setReg_status (s : State) (x : Reg) (b : Byte) :
    (s.setReg x b).status = s.status := rfl
@[simp] theorem State.setReg_presented (s : State) (x : Reg) (b : Byte) :
    (s.setReg x b).presented = s.presented := rfl
@[simp] theorem State.setReg_lastLoad (s : State) (x : Reg) (b : Byte) :
    (s.setReg x b).lastLoad = s.lastLoad := rfl

/-! ### State.setFlag -/

@[simp] theorem State.setFlag_i (s : State) (f : Bool) :
    (s.setFlag f).i = s.i := rfl
@[simp] theorem State.setFlag_pc (s : State) (f : Bool) :
    (s.setFlag f).pc = s.pc := rfl
@[simp] theorem State.setFlag_sp (s : State) (f : Bool) :
    (s.setFlag f).sp = s.sp := rfl
@[simp] theorem State.setFlag_stack (s : State) (f : Bool) :
    (s.setFlag f).stack = s.stack := rfl
@[simp] theorem State.setFlag_dt (s : State) (f : Bool) :
    (s.setFlag f).dt = s.dt := rfl
@[simp] theorem State.setFlag_st (s : State) (f : Bool) :
    (s.setFlag f).st = s.st := rfl
@[simp] theorem State.setFlag_fb (s : State) (f : Bool) :
    (s.setFlag f).fb = s.fb := rfl
@[simp] theorem State.setFlag_keys (s : State) (f : Bool) :
    (s.setFlag f).keys = s.keys := rfl
@[simp] theorem State.setFlag_pending (s : State) (f : Bool) :
    (s.setFlag f).pending = s.pending := rfl
@[simp] theorem State.setFlag_fault (s : State) (f : Bool) :
    (s.setFlag f).fault = s.fault := rfl
@[simp] theorem State.setFlag_init (s : State) (f : Bool) :
    (s.setFlag f).init = s.init := rfl
@[simp] theorem State.setFlag_mem (s : State) (f : Bool) :
    (s.setFlag f).mem = s.mem := rfl
@[simp] theorem State.setFlag_config (s : State) (f : Bool) :
    (s.setFlag f).config = s.config := rfl
@[simp] theorem State.setFlag_rnd (s : State) (f : Bool) :
    (s.setFlag f).rnd = s.rnd := rfl
@[simp] theorem State.setFlag_fci (s : State) (f : Bool) :
    (s.setFlag f).fci = s.fci := rfl
@[simp] theorem State.setFlag_inputs (s : State) (f : Bool) :
    (s.setFlag f).inputs = s.inputs := rfl
@[simp] theorem State.setFlag_draws (s : State) (f : Bool) :
    (s.setFlag f).draws = s.draws := rfl
@[simp] theorem State.setFlag_hostActions (s : State) (f : Bool) :
    (s.setFlag f).hostActions = s.hostActions := rfl
@[simp] theorem State.setFlag_status (s : State) (f : Bool) :
    (s.setFlag f).status = s.status := rfl
@[simp] theorem State.setFlag_presented (s : State) (f : Bool) :
    (s.setFlag f).presented = s.presented := rfl
@[simp] theorem State.setFlag_lastLoad (s : State) (f : Bool) :
    (s.setFlag f).lastLoad = s.lastLoad := rfl

/-! ### State.dataThenFlag -/

@[simp] theorem State.dataThenFlag_i (s : State) (x : Reg) (b : Byte) (f : Bool) :
    (s.dataThenFlag x b f).i = s.i := rfl
@[simp] theorem State.dataThenFlag_pc (s : State) (x : Reg) (b : Byte) (f : Bool) :
    (s.dataThenFlag x b f).pc = s.pc := rfl
@[simp] theorem State.dataThenFlag_sp (s : State) (x : Reg) (b : Byte) (f : Bool) :
    (s.dataThenFlag x b f).sp = s.sp := rfl
@[simp] theorem State.dataThenFlag_stack (s : State) (x : Reg) (b : Byte) (f : Bool) :
    (s.dataThenFlag x b f).stack = s.stack := rfl
@[simp] theorem State.dataThenFlag_dt (s : State) (x : Reg) (b : Byte) (f : Bool) :
    (s.dataThenFlag x b f).dt = s.dt := rfl
@[simp] theorem State.dataThenFlag_st (s : State) (x : Reg) (b : Byte) (f : Bool) :
    (s.dataThenFlag x b f).st = s.st := rfl
@[simp] theorem State.dataThenFlag_fb (s : State) (x : Reg) (b : Byte) (f : Bool) :
    (s.dataThenFlag x b f).fb = s.fb := rfl
@[simp] theorem State.dataThenFlag_keys (s : State) (x : Reg) (b : Byte) (f : Bool) :
    (s.dataThenFlag x b f).keys = s.keys := rfl
@[simp] theorem State.dataThenFlag_pending (s : State) (x : Reg) (b : Byte) (f : Bool) :
    (s.dataThenFlag x b f).pending = s.pending := rfl
@[simp] theorem State.dataThenFlag_fault (s : State) (x : Reg) (b : Byte) (f : Bool) :
    (s.dataThenFlag x b f).fault = s.fault := rfl
@[simp] theorem State.dataThenFlag_init (s : State) (x : Reg) (b : Byte) (f : Bool) :
    (s.dataThenFlag x b f).init = s.init := rfl
@[simp] theorem State.dataThenFlag_mem (s : State) (x : Reg) (b : Byte) (f : Bool) :
    (s.dataThenFlag x b f).mem = s.mem := rfl
@[simp] theorem State.dataThenFlag_config (s : State) (x : Reg) (b : Byte) (f : Bool) :
    (s.dataThenFlag x b f).config = s.config := rfl
@[simp] theorem State.dataThenFlag_rnd (s : State) (x : Reg) (b : Byte) (f : Bool) :
    (s.dataThenFlag x b f).rnd = s.rnd := rfl
@[simp] theorem State.dataThenFlag_fci (s : State) (x : Reg) (b : Byte) (f : Bool) :
    (s.dataThenFlag x b f).fci = s.fci := rfl
@[simp] theorem State.dataThenFlag_inputs (s : State) (x : Reg) (b : Byte) (f : Bool) :
    (s.dataThenFlag x b f).inputs = s.inputs := rfl
@[simp] theorem State.dataThenFlag_draws (s : State) (x : Reg) (b : Byte) (f : Bool) :
    (s.dataThenFlag x b f).draws = s.draws := rfl
@[simp] theorem State.dataThenFlag_hostActions (s : State) (x : Reg) (b : Byte) (f : Bool) :
    (s.dataThenFlag x b f).hostActions = s.hostActions := rfl
@[simp] theorem State.dataThenFlag_status (s : State) (x : Reg) (b : Byte) (f : Bool) :
    (s.dataThenFlag x b f).status = s.status := rfl
@[simp] theorem State.dataThenFlag_presented (s : State) (x : Reg) (b : Byte) (f : Bool) :
    (s.dataThenFlag x b f).presented = s.presented := rfl
@[simp] theorem State.dataThenFlag_lastLoad (s : State) (x : Reg) (b : Byte) (f : Bool) :
    (s.dataThenFlag x b f).lastLoad = s.lastLoad := rfl

/-! ### State.storeBytes -/

@[simp] theorem State.storeBytes_v (s : State) (a : Nat) (l : List Byte) :
    (s.storeBytes a l).v = s.v := rfl
@[simp] theorem State.storeBytes_i (s : State) (a : Nat) (l : List Byte) :
    (s.storeBytes a l).i = s.i := rfl
@[simp] theorem State.storeBytes_pc (s : State) (a : Nat) (l : List Byte) :
    (s.storeBytes a l).pc = s.pc := rfl
@[simp] theorem State.storeBytes_sp (s : State) (a : Nat) (l : List Byte) :
    (s.storeBytes a l).sp = s.sp := rfl
@[simp] theorem State.storeBytes_stack (s : State) (a : Nat) (l : List Byte) :
    (s.storeBytes a l).stack = s.stack := rfl
@[simp] theorem State.storeBytes_dt (s : State) (a : Nat) (l : List Byte) :
    (s.storeBytes a l).dt = s.dt := rfl
@[simp] theorem State.storeBytes_st (s : State) (a : Nat) (l : List Byte) :
    (s.storeBytes a l).st = s.st := rfl
@[simp] theorem State.storeBytes_fb (s : State) (a : Nat) (l : List Byte) :
    (s.storeBytes a l).fb = s.fb := rfl
@[simp] theorem State.storeBytes_keys (s : State) (a : Nat) (l : List Byte) :
    (s.storeBytes a l).keys = s.keys := rfl
@[simp] theorem State.storeBytes_pending (s : State) (a : Nat) (l : List Byte) :
    (s.storeBytes a l).pending = s.pending := rfl
@[simp] theorem State.storeBytes_fault (s : State) (a : Nat) (l : List Byte) :
    (s.storeBytes a l).fault = s.fault := rfl
@[simp] theorem State.storeBytes_init (s : State) (a : Nat) (l : List Byte) :
    (s.storeBytes a l).init = s.init := rfl
@[simp] theorem State.storeBytes_mem (s : State) (a : Nat) (l : List Byte) :
    (s.storeBytes a l).mem = Memory.writeBytes s.config.font s.mem a l := rfl
@[simp] theorem State.storeBytes_config (s : State) (a : Nat) (l : List Byte) :
    (s.storeBytes a l).config = s.config := rfl
@[simp] theorem State.storeBytes_rnd (s : State) (a : Nat) (l : List Byte) :
    (s.storeBytes a l).rnd = s.rnd := rfl
@[simp] theorem State.storeBytes_fci (s : State) (a : Nat) (l : List Byte) :
    (s.storeBytes a l).fci = s.fci := rfl
@[simp] theorem State.storeBytes_inputs (s : State) (a : Nat) (l : List Byte) :
    (s.storeBytes a l).inputs = s.inputs := rfl
@[simp] theorem State.storeBytes_draws (s : State) (a : Nat) (l : List Byte) :
    (s.storeBytes a l).draws = s.draws := rfl
@[simp] theorem State.storeBytes_hostActions (s : State) (a : Nat) (l : List Byte) :
    (s.storeBytes a l).hostActions = s.hostActions := rfl
@[simp] theorem State.storeBytes_status (s : State) (a : Nat) (l : List Byte) :
    (s.storeBytes a l).status = s.status := rfl
@[simp] theorem State.storeBytes_presented (s : State) (a : Nat) (l : List Byte) :
    (s.storeBytes a l).presented = s.presented := rfl
@[simp] theorem State.storeBytes_lastLoad (s : State) (a : Nat) (l : List Byte) :
    (s.storeBytes a l).lastLoad = s.lastLoad := rfl

/-! ### State.advanceI -/

@[simp] theorem State.advanceI_v (s : State) (x : Reg) :
    (s.advanceI x).v = s.v := rfl
@[simp] theorem State.advanceI_i (s : State) (x : Reg) :
    (s.advanceI x).i = s.i + BitVec.ofNat 16 (x.val + 1) := rfl
@[simp] theorem State.advanceI_pc (s : State) (x : Reg) :
    (s.advanceI x).pc = s.pc := rfl
@[simp] theorem State.advanceI_sp (s : State) (x : Reg) :
    (s.advanceI x).sp = s.sp := rfl
@[simp] theorem State.advanceI_stack (s : State) (x : Reg) :
    (s.advanceI x).stack = s.stack := rfl
@[simp] theorem State.advanceI_dt (s : State) (x : Reg) :
    (s.advanceI x).dt = s.dt := rfl
@[simp] theorem State.advanceI_st (s : State) (x : Reg) :
    (s.advanceI x).st = s.st := rfl
@[simp] theorem State.advanceI_fb (s : State) (x : Reg) :
    (s.advanceI x).fb = s.fb := rfl
@[simp] theorem State.advanceI_keys (s : State) (x : Reg) :
    (s.advanceI x).keys = s.keys := rfl
@[simp] theorem State.advanceI_pending (s : State) (x : Reg) :
    (s.advanceI x).pending = s.pending := rfl
@[simp] theorem State.advanceI_fault (s : State) (x : Reg) :
    (s.advanceI x).fault = s.fault := rfl
@[simp] theorem State.advanceI_init (s : State) (x : Reg) :
    (s.advanceI x).init = s.init := rfl
@[simp] theorem State.advanceI_mem (s : State) (x : Reg) :
    (s.advanceI x).mem = s.mem := rfl
@[simp] theorem State.advanceI_config (s : State) (x : Reg) :
    (s.advanceI x).config = s.config := rfl
@[simp] theorem State.advanceI_rnd (s : State) (x : Reg) :
    (s.advanceI x).rnd = s.rnd := rfl
@[simp] theorem State.advanceI_fci (s : State) (x : Reg) :
    (s.advanceI x).fci = s.fci := rfl
@[simp] theorem State.advanceI_inputs (s : State) (x : Reg) :
    (s.advanceI x).inputs = s.inputs := rfl
@[simp] theorem State.advanceI_draws (s : State) (x : Reg) :
    (s.advanceI x).draws = s.draws := rfl
@[simp] theorem State.advanceI_hostActions (s : State) (x : Reg) :
    (s.advanceI x).hostActions = s.hostActions := rfl
@[simp] theorem State.advanceI_status (s : State) (x : Reg) :
    (s.advanceI x).status = s.status := rfl
@[simp] theorem State.advanceI_presented (s : State) (x : Reg) :
    (s.advanceI x).presented = s.presented := rfl
@[simp] theorem State.advanceI_lastLoad (s : State) (x : Reg) :
    (s.advanceI x).lastLoad = s.lastLoad := rfl

/-! ### State.takeFault -/

@[simp] theorem State.takeFault_v (s : State) (a : Word) (c : FaultCause) :
    (s.takeFault a c).v = s.v := rfl
@[simp] theorem State.takeFault_i (s : State) (a : Word) (c : FaultCause) :
    (s.takeFault a c).i = s.i := rfl
@[simp] theorem State.takeFault_pc (s : State) (a : Word) (c : FaultCause) :
    (s.takeFault a c).pc = a := rfl
@[simp] theorem State.takeFault_sp (s : State) (a : Word) (c : FaultCause) :
    (s.takeFault a c).sp = s.sp := rfl
@[simp] theorem State.takeFault_stack (s : State) (a : Word) (c : FaultCause) :
    (s.takeFault a c).stack = s.stack := rfl
@[simp] theorem State.takeFault_dt (s : State) (a : Word) (c : FaultCause) :
    (s.takeFault a c).dt = s.dt := rfl
@[simp] theorem State.takeFault_st (s : State) (a : Word) (c : FaultCause) :
    (s.takeFault a c).st = s.st := rfl
@[simp] theorem State.takeFault_fb (s : State) (a : Word) (c : FaultCause) :
    (s.takeFault a c).fb = s.fb := rfl
@[simp] theorem State.takeFault_keys (s : State) (a : Word) (c : FaultCause) :
    (s.takeFault a c).keys = s.keys := rfl
@[simp] theorem State.takeFault_pending (s : State) (a : Word) (c : FaultCause) :
    (s.takeFault a c).pending = s.pending := rfl
@[simp] theorem State.takeFault_fault (s : State) (a : Word) (c : FaultCause) :
    (s.takeFault a c).fault = some { pc := a, cause := c } := rfl
@[simp] theorem State.takeFault_init (s : State) (a : Word) (c : FaultCause) :
    (s.takeFault a c).init = s.init := rfl
@[simp] theorem State.takeFault_mem (s : State) (a : Word) (c : FaultCause) :
    (s.takeFault a c).mem = s.mem := rfl
@[simp] theorem State.takeFault_config (s : State) (a : Word) (c : FaultCause) :
    (s.takeFault a c).config = s.config := rfl
@[simp] theorem State.takeFault_rnd (s : State) (a : Word) (c : FaultCause) :
    (s.takeFault a c).rnd = s.rnd := rfl
@[simp] theorem State.takeFault_fci (s : State) (a : Word) (c : FaultCause) :
    (s.takeFault a c).fci = s.fci := rfl
@[simp] theorem State.takeFault_inputs (s : State) (a : Word) (c : FaultCause) :
    (s.takeFault a c).inputs = s.inputs := rfl
@[simp] theorem State.takeFault_draws (s : State) (a : Word) (c : FaultCause) :
    (s.takeFault a c).draws = s.draws := rfl
@[simp] theorem State.takeFault_hostActions (s : State) (a : Word) (c : FaultCause) :
    (s.takeFault a c).hostActions = s.hostActions := rfl
@[simp] theorem State.takeFault_status (s : State) (a : Word) (c : FaultCause) :
    (s.takeFault a c).status = some .faulted := rfl
@[simp] theorem State.takeFault_presented (s : State) (a : Word) (c : FaultCause) :
    (s.takeFault a c).presented = s.presented := rfl
@[simp] theorem State.takeFault_lastLoad (s : State) (a : Word) (c : FaultCause) :
    (s.takeFault a c).lastLoad = s.lastLoad := rfl

/-! ### State.latchInputs -/

@[simp] theorem State.latchInputs_v (s : State) (k : Keypad) (r : Byte) (n : Nat) :
    (s.latchInputs k r n).v = s.v := rfl
@[simp] theorem State.latchInputs_i (s : State) (k : Keypad) (r : Byte) (n : Nat) :
    (s.latchInputs k r n).i = s.i := rfl
@[simp] theorem State.latchInputs_pc (s : State) (k : Keypad) (r : Byte) (n : Nat) :
    (s.latchInputs k r n).pc = s.pc := rfl
@[simp] theorem State.latchInputs_sp (s : State) (k : Keypad) (r : Byte) (n : Nat) :
    (s.latchInputs k r n).sp = s.sp := rfl
@[simp] theorem State.latchInputs_stack (s : State) (k : Keypad) (r : Byte) (n : Nat) :
    (s.latchInputs k r n).stack = s.stack := rfl
@[simp] theorem State.latchInputs_dt (s : State) (k : Keypad) (r : Byte) (n : Nat) :
    (s.latchInputs k r n).dt = s.dt := rfl
@[simp] theorem State.latchInputs_st (s : State) (k : Keypad) (r : Byte) (n : Nat) :
    (s.latchInputs k r n).st = s.st := rfl
@[simp] theorem State.latchInputs_fb (s : State) (k : Keypad) (r : Byte) (n : Nat) :
    (s.latchInputs k r n).fb = s.fb := rfl
@[simp] theorem State.latchInputs_keys (s : State) (k : Keypad) (r : Byte) (n : Nat) :
    (s.latchInputs k r n).keys = k := rfl
@[simp] theorem State.latchInputs_pending (s : State) (k : Keypad) (r : Byte) (n : Nat) :
    (s.latchInputs k r n).pending = s.pending := rfl
@[simp] theorem State.latchInputs_fault (s : State) (k : Keypad) (r : Byte) (n : Nat) :
    (s.latchInputs k r n).fault = s.fault := rfl
@[simp] theorem State.latchInputs_init (s : State) (k : Keypad) (r : Byte) (n : Nat) :
    (s.latchInputs k r n).init = s.init := rfl
@[simp] theorem State.latchInputs_mem (s : State) (k : Keypad) (r : Byte) (n : Nat) :
    (s.latchInputs k r n).mem = s.mem := rfl
@[simp] theorem State.latchInputs_config (s : State) (k : Keypad) (r : Byte) (n : Nat) :
    (s.latchInputs k r n).config = s.config := rfl
@[simp] theorem State.latchInputs_rnd (s : State) (k : Keypad) (r : Byte) (n : Nat) :
    (s.latchInputs k r n).rnd = r := rfl
@[simp] theorem State.latchInputs_fci (s : State) (k : Keypad) (r : Byte) (n : Nat) :
    (s.latchInputs k r n).fci = n := rfl
@[simp] theorem State.latchInputs_inputs (s : State) (k : Keypad) (r : Byte) (n : Nat) :
    (s.latchInputs k r n).inputs = s.inputs := rfl
@[simp] theorem State.latchInputs_draws (s : State) (k : Keypad) (r : Byte) (n : Nat) :
    (s.latchInputs k r n).draws = s.draws := rfl
@[simp] theorem State.latchInputs_hostActions (s : State) (k : Keypad) (r : Byte) (n : Nat) :
    (s.latchInputs k r n).hostActions = s.hostActions := rfl
@[simp] theorem State.latchInputs_status (s : State) (k : Keypad) (r : Byte) (n : Nat) :
    (s.latchInputs k r n).status = s.status := rfl
@[simp] theorem State.latchInputs_presented (s : State) (k : Keypad) (r : Byte) (n : Nat) :
    (s.latchInputs k r n).presented = s.presented := rfl
@[simp] theorem State.latchInputs_lastLoad (s : State) (k : Keypad) (r : Byte) (n : Nat) :
    (s.latchInputs k r n).lastLoad = s.lastLoad := rfl

/-! ### State.present -/

@[simp] theorem State.present_v (s : State) :
    (s.present).v = s.v := rfl
@[simp] theorem State.present_i (s : State) :
    (s.present).i = s.i := rfl
@[simp] theorem State.present_pc (s : State) :
    (s.present).pc = s.pc := rfl
@[simp] theorem State.present_sp (s : State) :
    (s.present).sp = s.sp := rfl
@[simp] theorem State.present_stack (s : State) :
    (s.present).stack = s.stack := rfl
@[simp] theorem State.present_dt (s : State) :
    (s.present).dt = s.dt := rfl
@[simp] theorem State.present_st (s : State) :
    (s.present).st = s.st := rfl
@[simp] theorem State.present_fb (s : State) :
    (s.present).fb = s.fb := rfl
@[simp] theorem State.present_keys (s : State) :
    (s.present).keys = s.keys := rfl
@[simp] theorem State.present_pending (s : State) :
    (s.present).pending = s.pending := rfl
@[simp] theorem State.present_fault (s : State) :
    (s.present).fault = s.fault := rfl
@[simp] theorem State.present_init (s : State) :
    (s.present).init = s.init := rfl
@[simp] theorem State.present_mem (s : State) :
    (s.present).mem = s.mem := rfl
@[simp] theorem State.present_config (s : State) :
    (s.present).config = s.config := rfl
@[simp] theorem State.present_rnd (s : State) :
    (s.present).rnd = s.rnd := rfl
@[simp] theorem State.present_fci (s : State) :
    (s.present).fci = s.fci := rfl
@[simp] theorem State.present_inputs (s : State) :
    (s.present).inputs = s.inputs := rfl
@[simp] theorem State.present_draws (s : State) :
    (s.present).draws = s.draws := rfl
@[simp] theorem State.present_hostActions (s : State) :
    (s.present).hostActions = s.hostActions := rfl
@[simp] theorem State.present_status (s : State) :
    (s.present).status = s.status := rfl
@[simp] theorem State.present_presented (s : State) :
    (s.present).presented = some { fb := s.fb, soundOn := s.soundOn } := rfl
@[simp] theorem State.present_lastLoad (s : State) :
    (s.present).lastLoad = s.lastLoad := rfl

/-! ### loadFails -/

@[simp] theorem loadFails_v (e : LoadResult) (s : State) :
    (loadFails e s).v = s.v := rfl
@[simp] theorem loadFails_i (e : LoadResult) (s : State) :
    (loadFails e s).i = s.i := rfl
@[simp] theorem loadFails_pc (e : LoadResult) (s : State) :
    (loadFails e s).pc = s.pc := rfl
@[simp] theorem loadFails_sp (e : LoadResult) (s : State) :
    (loadFails e s).sp = s.sp := rfl
@[simp] theorem loadFails_stack (e : LoadResult) (s : State) :
    (loadFails e s).stack = s.stack := rfl
@[simp] theorem loadFails_dt (e : LoadResult) (s : State) :
    (loadFails e s).dt = s.dt := rfl
@[simp] theorem loadFails_st (e : LoadResult) (s : State) :
    (loadFails e s).st = s.st := rfl
@[simp] theorem loadFails_fb (e : LoadResult) (s : State) :
    (loadFails e s).fb = s.fb := rfl
@[simp] theorem loadFails_keys (e : LoadResult) (s : State) :
    (loadFails e s).keys = s.keys := rfl
@[simp] theorem loadFails_pending (e : LoadResult) (s : State) :
    (loadFails e s).pending = s.pending := rfl
@[simp] theorem loadFails_fault (e : LoadResult) (s : State) :
    (loadFails e s).fault = s.fault := rfl
@[simp] theorem loadFails_init (e : LoadResult) (s : State) :
    (loadFails e s).init = s.init := rfl
@[simp] theorem loadFails_mem (e : LoadResult) (s : State) :
    (loadFails e s).mem = s.mem := rfl
@[simp] theorem loadFails_config (e : LoadResult) (s : State) :
    (loadFails e s).config = s.config := rfl
@[simp] theorem loadFails_rnd (e : LoadResult) (s : State) :
    (loadFails e s).rnd = s.rnd := rfl
@[simp] theorem loadFails_fci (e : LoadResult) (s : State) :
    (loadFails e s).fci = s.fci := rfl
@[simp] theorem loadFails_inputs (e : LoadResult) (s : State) :
    (loadFails e s).inputs = s.inputs := rfl
@[simp] theorem loadFails_draws (e : LoadResult) (s : State) :
    (loadFails e s).draws = s.draws := rfl
@[simp] theorem loadFails_hostActions (e : LoadResult) (s : State) :
    (loadFails e s).hostActions = s.hostActions := rfl
@[simp] theorem loadFails_status (e : LoadResult) (s : State) :
    (loadFails e s).status = s.status := rfl
@[simp] theorem loadFails_presented (e : LoadResult) (s : State) :
    (loadFails e s).presented = s.presented := rfl
@[simp] theorem loadFails_lastLoad (e : LoadResult) (s : State) :
    (loadFails e s).lastLoad = some e := rfl

/-! ### Updates under a condition -/

@[simp] theorem State.skipIf_v (s : State) (c : Bool) :
    (s.skipIf c).v = s.v := by cases c <;> rfl
@[simp] theorem State.skipIf_i (s : State) (c : Bool) :
    (s.skipIf c).i = s.i := by cases c <;> rfl
@[simp] theorem State.skipIf_sp (s : State) (c : Bool) :
    (s.skipIf c).sp = s.sp := by cases c <;> rfl
@[simp] theorem State.skipIf_stack (s : State) (c : Bool) :
    (s.skipIf c).stack = s.stack := by cases c <;> rfl
@[simp] theorem State.skipIf_dt (s : State) (c : Bool) :
    (s.skipIf c).dt = s.dt := by cases c <;> rfl
@[simp] theorem State.skipIf_st (s : State) (c : Bool) :
    (s.skipIf c).st = s.st := by cases c <;> rfl
@[simp] theorem State.skipIf_fb (s : State) (c : Bool) :
    (s.skipIf c).fb = s.fb := by cases c <;> rfl
@[simp] theorem State.skipIf_keys (s : State) (c : Bool) :
    (s.skipIf c).keys = s.keys := by cases c <;> rfl
@[simp] theorem State.skipIf_pending (s : State) (c : Bool) :
    (s.skipIf c).pending = s.pending := by cases c <;> rfl
@[simp] theorem State.skipIf_fault (s : State) (c : Bool) :
    (s.skipIf c).fault = s.fault := by cases c <;> rfl
@[simp] theorem State.skipIf_init (s : State) (c : Bool) :
    (s.skipIf c).init = s.init := by cases c <;> rfl
@[simp] theorem State.skipIf_mem (s : State) (c : Bool) :
    (s.skipIf c).mem = s.mem := by cases c <;> rfl
@[simp] theorem State.skipIf_config (s : State) (c : Bool) :
    (s.skipIf c).config = s.config := by cases c <;> rfl
@[simp] theorem State.skipIf_rnd (s : State) (c : Bool) :
    (s.skipIf c).rnd = s.rnd := by cases c <;> rfl
@[simp] theorem State.skipIf_fci (s : State) (c : Bool) :
    (s.skipIf c).fci = s.fci := by cases c <;> rfl
@[simp] theorem State.skipIf_inputs (s : State) (c : Bool) :
    (s.skipIf c).inputs = s.inputs := by cases c <;> rfl
@[simp] theorem State.skipIf_draws (s : State) (c : Bool) :
    (s.skipIf c).draws = s.draws := by cases c <;> rfl
@[simp] theorem State.skipIf_hostActions (s : State) (c : Bool) :
    (s.skipIf c).hostActions = s.hostActions := by cases c <;> rfl
@[simp] theorem State.skipIf_status (s : State) (c : Bool) :
    (s.skipIf c).status = s.status := by cases c <;> rfl
@[simp] theorem State.skipIf_presented (s : State) (c : Bool) :
    (s.skipIf c).presented = s.presented := by cases c <;> rfl
@[simp] theorem State.skipIf_lastLoad (s : State) (c : Bool) :
    (s.skipIf c).lastLoad = s.lastLoad := by cases c <;> rfl
@[simp] theorem State.skipIf_pc (s : State) (c : Bool) :
    (s.skipIf c).pc = if c then s.pc + 2 else s.pc := by cases c <;> rfl

@[simp] theorem State.logicQuirk_i (s : State) :
    s.logicQuirk.i = s.i := by unfold State.logicQuirk; split <;> rfl
@[simp] theorem State.logicQuirk_pc (s : State) :
    s.logicQuirk.pc = s.pc := by unfold State.logicQuirk; split <;> rfl
@[simp] theorem State.logicQuirk_sp (s : State) :
    s.logicQuirk.sp = s.sp := by unfold State.logicQuirk; split <;> rfl
@[simp] theorem State.logicQuirk_stack (s : State) :
    s.logicQuirk.stack = s.stack := by unfold State.logicQuirk; split <;> rfl
@[simp] theorem State.logicQuirk_dt (s : State) :
    s.logicQuirk.dt = s.dt := by unfold State.logicQuirk; split <;> rfl
@[simp] theorem State.logicQuirk_st (s : State) :
    s.logicQuirk.st = s.st := by unfold State.logicQuirk; split <;> rfl
@[simp] theorem State.logicQuirk_fb (s : State) :
    s.logicQuirk.fb = s.fb := by unfold State.logicQuirk; split <;> rfl
@[simp] theorem State.logicQuirk_keys (s : State) :
    s.logicQuirk.keys = s.keys := by unfold State.logicQuirk; split <;> rfl
@[simp] theorem State.logicQuirk_pending (s : State) :
    s.logicQuirk.pending = s.pending := by unfold State.logicQuirk; split <;> rfl
@[simp] theorem State.logicQuirk_fault (s : State) :
    s.logicQuirk.fault = s.fault := by unfold State.logicQuirk; split <;> rfl
@[simp] theorem State.logicQuirk_init (s : State) :
    s.logicQuirk.init = s.init := by unfold State.logicQuirk; split <;> rfl
@[simp] theorem State.logicQuirk_mem (s : State) :
    s.logicQuirk.mem = s.mem := by unfold State.logicQuirk; split <;> rfl
@[simp] theorem State.logicQuirk_config (s : State) :
    s.logicQuirk.config = s.config := by unfold State.logicQuirk; split <;> rfl
@[simp] theorem State.logicQuirk_rnd (s : State) :
    s.logicQuirk.rnd = s.rnd := by unfold State.logicQuirk; split <;> rfl
@[simp] theorem State.logicQuirk_fci (s : State) :
    s.logicQuirk.fci = s.fci := by unfold State.logicQuirk; split <;> rfl
@[simp] theorem State.logicQuirk_inputs (s : State) :
    s.logicQuirk.inputs = s.inputs := by unfold State.logicQuirk; split <;> rfl
@[simp] theorem State.logicQuirk_draws (s : State) :
    s.logicQuirk.draws = s.draws := by unfold State.logicQuirk; split <;> rfl
@[simp] theorem State.logicQuirk_hostActions (s : State) :
    s.logicQuirk.hostActions = s.hostActions := by unfold State.logicQuirk; split <;> rfl
@[simp] theorem State.logicQuirk_status (s : State) :
    s.logicQuirk.status = s.status := by unfold State.logicQuirk; split <;> rfl
@[simp] theorem State.logicQuirk_presented (s : State) :
    s.logicQuirk.presented = s.presented := by unfold State.logicQuirk; split <;> rfl
@[simp] theorem State.logicQuirk_lastLoad (s : State) :
    s.logicQuirk.lastLoad = s.lastLoad := by unfold State.logicQuirk; split <;> rfl

@[simp] theorem timerTick_v (s : State) :
    (timerTick s).v = s.v := by unfold timerTick; split <;> rfl
@[simp] theorem timerTick_i (s : State) :
    (timerTick s).i = s.i := by unfold timerTick; split <;> rfl
@[simp] theorem timerTick_pc (s : State) :
    (timerTick s).pc = s.pc := by unfold timerTick; split <;> rfl
@[simp] theorem timerTick_sp (s : State) :
    (timerTick s).sp = s.sp := by unfold timerTick; split <;> rfl
@[simp] theorem timerTick_stack (s : State) :
    (timerTick s).stack = s.stack := by unfold timerTick; split <;> rfl
@[simp] theorem timerTick_fb (s : State) :
    (timerTick s).fb = s.fb := by unfold timerTick; split <;> rfl
@[simp] theorem timerTick_keys (s : State) :
    (timerTick s).keys = s.keys := by unfold timerTick; split <;> rfl
@[simp] theorem timerTick_pending (s : State) :
    (timerTick s).pending = s.pending := by unfold timerTick; split <;> rfl
@[simp] theorem timerTick_fault (s : State) :
    (timerTick s).fault = s.fault := by unfold timerTick; split <;> rfl
@[simp] theorem timerTick_init (s : State) :
    (timerTick s).init = s.init := by unfold timerTick; split <;> rfl
@[simp] theorem timerTick_mem (s : State) :
    (timerTick s).mem = s.mem := by unfold timerTick; split <;> rfl
@[simp] theorem timerTick_config (s : State) :
    (timerTick s).config = s.config := by unfold timerTick; split <;> rfl
@[simp] theorem timerTick_rnd (s : State) :
    (timerTick s).rnd = s.rnd := by unfold timerTick; split <;> rfl
@[simp] theorem timerTick_fci (s : State) :
    (timerTick s).fci = s.fci := by unfold timerTick; split <;> rfl
@[simp] theorem timerTick_inputs (s : State) :
    (timerTick s).inputs = s.inputs := by unfold timerTick; split <;> rfl
@[simp] theorem timerTick_draws (s : State) :
    (timerTick s).draws = s.draws := by unfold timerTick; split <;> rfl
@[simp] theorem timerTick_hostActions (s : State) :
    (timerTick s).hostActions = s.hostActions := by unfold timerTick; split <;> rfl
@[simp] theorem timerTick_status (s : State) :
    (timerTick s).status = s.status := by unfold timerTick; split <;> rfl
@[simp] theorem timerTick_presented (s : State) :
    (timerTick s).presented = s.presented := by unfold timerTick; split <;> rfl
@[simp] theorem timerTick_lastLoad (s : State) :
    (timerTick s).lastLoad = s.lastLoad := by unfold timerTick; split <;> rfl

@[simp] theorem State.consumeInput_v (s : State) :
    s.consumeInput.v = s.v := by unfold State.consumeInput; split <;> rfl
@[simp] theorem State.consumeInput_i (s : State) :
    s.consumeInput.i = s.i := by unfold State.consumeInput; split <;> rfl
@[simp] theorem State.consumeInput_pc (s : State) :
    s.consumeInput.pc = s.pc := by unfold State.consumeInput; split <;> rfl
@[simp] theorem State.consumeInput_sp (s : State) :
    s.consumeInput.sp = s.sp := by unfold State.consumeInput; split <;> rfl
@[simp] theorem State.consumeInput_stack (s : State) :
    s.consumeInput.stack = s.stack := by unfold State.consumeInput; split <;> rfl
@[simp] theorem State.consumeInput_dt (s : State) :
    s.consumeInput.dt = s.dt := by unfold State.consumeInput; split <;> rfl
@[simp] theorem State.consumeInput_st (s : State) :
    s.consumeInput.st = s.st := by unfold State.consumeInput; split <;> rfl
@[simp] theorem State.consumeInput_fb (s : State) :
    s.consumeInput.fb = s.fb := by unfold State.consumeInput; split <;> rfl
@[simp] theorem State.consumeInput_keys (s : State) :
    s.consumeInput.keys = s.keys := by unfold State.consumeInput; split <;> rfl
@[simp] theorem State.consumeInput_pending (s : State) :
    s.consumeInput.pending = s.pending := by unfold State.consumeInput; split <;> rfl
@[simp] theorem State.consumeInput_fault (s : State) :
    s.consumeInput.fault = s.fault := by unfold State.consumeInput; split <;> rfl
@[simp] theorem State.consumeInput_init (s : State) :
    s.consumeInput.init = s.init := by unfold State.consumeInput; split <;> rfl
@[simp] theorem State.consumeInput_mem (s : State) :
    s.consumeInput.mem = s.mem := by unfold State.consumeInput; split <;> rfl
@[simp] theorem State.consumeInput_config (s : State) :
    s.consumeInput.config = s.config := by unfold State.consumeInput; split <;> rfl
@[simp] theorem State.consumeInput_rnd (s : State) :
    s.consumeInput.rnd = s.rnd := by unfold State.consumeInput; split <;> rfl
@[simp] theorem State.consumeInput_fci (s : State) :
    s.consumeInput.fci = s.fci := by unfold State.consumeInput; split <;> rfl
@[simp] theorem State.consumeInput_hostActions (s : State) :
    s.consumeInput.hostActions = s.hostActions := by unfold State.consumeInput; split <;> rfl
@[simp] theorem State.consumeInput_status (s : State) :
    s.consumeInput.status = s.status := by unfold State.consumeInput; split <;> rfl
@[simp] theorem State.consumeInput_presented (s : State) :
    s.consumeInput.presented = s.presented := by unfold State.consumeInput; split <;> rfl
@[simp] theorem State.consumeInput_lastLoad (s : State) :
    s.consumeInput.lastLoad = s.lastLoad := by unfold State.consumeInput; split <;> rfl

/-- Using up an input changes the two fields of the environment's schedule only. -/
theorem State.consumeInput_eq (s : State) :
    s.consumeInput = { s with inputs := s.consumeInput.inputs, draws := s.consumeInput.draws } := by
  unfold State.consumeInput; split <;> rfl

/-- A timer tick changes the two timers only (R223). -/
theorem timerTick_eq (s : State) :
    timerTick s = { s with dt := (timerTick s).dt, st := (timerTick s).st } := by
  unfold timerTick; split <;> rfl

end Sys2Proof.Machine
end

