-- ==== Sys2Proof/Laws/Memory.lean ====
section
/-!
SUPPORT. Memory: a read after a write (spec/20_memory.md R54), that every memory operation keeps the
canonical form, and that equal contents are equal data.
-/
namespace Sys2Proof.Machine

variable {font : Vector Byte 80}

theorem Memory.wfFrom_cons_iff {lo a : Nat} {b : Byte} {rest : Memory} :
    Memory.wfFrom font lo ((a, b) :: rest) = true ↔
      lo ≤ a ∧ a < memorySize ∧ b ≠ Memory.unlisted font a ∧ Memory.wfFrom font (a + 1) rest = true := by
  simp [Memory.wfFrom, and_assoc]

theorem Memory.wfFrom_mono {m : Memory} {lo lo' : Nat} (hle : lo' ≤ lo)
    (h : Memory.wfFrom font lo m = true) : Memory.wfFrom font lo' m = true := by
  cases m with
  | nil => rfl
  | cons c rest =>
    obtain ⟨h1, h2⟩ := Memory.wfFrom_cons_iff.1 h
    exact Memory.wfFrom_cons_iff.2 ⟨hle.trans h1, h2⟩

/-- Below the first address a canonical memory may list, every read is of an unlisted address. -/
theorem Memory.read_eq_unlisted {m : Memory} {lo a : Nat} (h : Memory.wfFrom font lo m = true)
    (ha : a < lo) : Memory.read font m a = Memory.unlisted font a := by
  induction m generalizing lo with
  | nil => rfl
  | cons c rest ih =>
    obtain ⟨c, b⟩ := c
    obtain ⟨h1, -, -, h4⟩ := Memory.wfFrom_cons_iff.1 h
    rw [Memory.read, if_neg (by omega)]
    exact ih h4 (by omega)

theorem Memory.cons_keeps_wfFrom {lo a : Nat} {b : Byte} {rest : Memory} (hlo : lo ≤ a)
    (ha : a < memorySize) (h : Memory.wfFrom font (a + 1) rest = true) :
    Memory.wfFrom font lo (Memory.cons font a b rest) = true := by
  unfold Memory.cons
  split
  · exact Memory.wfFrom_mono (by omega) h
  · exact Memory.wfFrom_cons_iff.2 ⟨hlo, ha, ‹_›, h⟩

theorem Memory.write_keeps_wfFrom {m : Memory} {lo a : Nat} {b : Byte} (hlo : lo ≤ a)
    (ha : a < memorySize) (h : Memory.wfFrom font lo m = true) :
    Memory.wfFrom font lo (Memory.write font m a b) = true := by
  induction m generalizing lo with
  | nil => exact Memory.cons_keeps_wfFrom hlo ha rfl
  | cons c rest ih =>
    obtain ⟨c, d⟩ := c
    obtain ⟨h1, h2, h3, h4⟩ := Memory.wfFrom_cons_iff.1 h
    rw [Memory.write]
    split
    · exact Memory.cons_keeps_wfFrom hlo ha (Memory.wfFrom_cons_iff.2 ⟨by omega, h2, h3, h4⟩)
    · split
      · subst_vars; exact Memory.cons_keeps_wfFrom hlo ha h4
      · exact Memory.wfFrom_cons_iff.2 ⟨h1, h2, h3, ih (by omega) h4⟩

/-- R54's write keeps the canonical form. -/
theorem Memory.write_keeps_wf {m : Memory} {a : Nat} {b : Byte} (ha : a < memorySize)
    (h : Memory.wf font m = true) : Memory.wf font (Memory.write font m a b) = true :=
  Memory.write_keeps_wfFrom (Nat.zero_le a) ha h

/-- A run of writes that stays in range keeps the canonical form. -/
theorem Memory.writeBytes_keeps_wf {m : Memory} {a : Nat} {l : List Byte}
    (ha : a + l.length ≤ memorySize) (h : Memory.wf font m = true) :
    Memory.wf font (Memory.writeBytes font m a l) = true := by
  induction l generalizing m a with
  | nil => exact h
  | cons b rest ih =>
    simp only [List.length_cons] at ha
    exact ih (by omega) (Memory.write_keeps_wf (by omega) h)

theorem Memory.read_cons_same {a : Nat} {b : Byte} {rest : Memory} {lo : Nat} (hlo : a < lo)
    (h : Memory.wfFrom font lo rest = true) : Memory.read font (Memory.cons font a b rest) a = b := by
  unfold Memory.cons
  split
  · rw [Memory.read_eq_unlisted h hlo, ‹b = _›]
  · simp [Memory.read]

theorem Memory.read_cons_ne {a a' : Nat} {b : Byte} {rest : Memory} (hne : a' ≠ a) :
    Memory.read font (Memory.cons font a b rest) a' = Memory.read font rest a' := by
  unfold Memory.cons
  split
  · rfl
  · rw [Memory.read, if_neg hne]

theorem Memory.read_write_same_from {m : Memory} {lo a : Nat} {b : Byte}
    (h : Memory.wfFrom font lo m = true) : Memory.read font (Memory.write font m a b) a = b := by
  induction m generalizing lo with
  | nil => exact Memory.read_cons_same (Nat.lt_succ_self a) rfl
  | cons c rest ih =>
    obtain ⟨c, d⟩ := c
    obtain ⟨h1, h2, h3, h4⟩ := Memory.wfFrom_cons_iff.1 h
    rw [Memory.write]
    split
    · exact Memory.read_cons_same (Nat.lt_succ_self a)
        (Memory.wfFrom_cons_iff.2 ⟨by omega, h2, h3, h4⟩)
    · split
      · subst_vars; exact Memory.read_cons_same (Nat.lt_succ_self _) h4
      · rw [Memory.read, if_neg (by omega)]; exact ih h4

/-- R54: a later read of the address returns the byte written. -/
theorem Memory.read_write_same {m : Memory} {a : Nat} {b : Byte} (h : Memory.wf font m = true) :
    Memory.read font (Memory.write font m a b) a = b :=
  Memory.read_write_same_from h

/-- A write leaves every other address alone. -/
theorem Memory.read_write_ne {m : Memory} {a a' : Nat} {b : Byte} (hne : a' ≠ a) :
    Memory.read font (Memory.write font m a b) a' = Memory.read font m a' := by
  induction m with
  | nil => exact Memory.read_cons_ne hne
  | cons c rest ih =>
    obtain ⟨c, d⟩ := c
    rw [Memory.write]
    split
    · exact Memory.read_cons_ne hne
    · split
      · subst_vars; rw [Memory.read_cons_ne hne, Memory.read, if_neg hne]
      · rw [Memory.read, ih, Memory.read]

theorem Memory.read_writeBytes_outside {m : Memory} {a a' : Nat} {l : List Byte}
    (hout : a' < a ∨ a + l.length ≤ a') :
    Memory.read font (Memory.writeBytes font m a l) a' = Memory.read font m a' := by
  induction l generalizing m a with
  | nil => rfl
  | cons b rest ih =>
    simp only [List.length_cons] at hout
    rw [Memory.writeBytes, ih (by omega), Memory.read_write_ne (by omega)]

theorem Memory.read_writeBytes_inside {m : Memory} {a k : Nat} {l : List Byte}
    (h : Memory.wf font m = true) (hin : a + l.length ≤ memorySize) (hk : k < l.length) :
    Memory.read font (Memory.writeBytes font m a l) (a + k) = l[k] := by
  induction l generalizing m a k with
  | nil => simp at hk
  | cons b rest ih =>
    simp only [List.length_cons] at hin hk
    rw [Memory.writeBytes]
    cases k with
    | zero =>
      rw [Memory.read_writeBytes_outside (by omega)]
      simpa using Memory.read_write_same h
    | succ j =>
      have hj := ih (m := Memory.write font m a b) (a := a + 1) (k := j)
        (Memory.write_keeps_wf (by omega) h) (by omega) (by omega)
      rw [show a + (j + 1) = a + 1 + j by omega, hj]
      rfl

theorem Memory.eq_of_read_eq_from {m m' : Memory} {lo : Nat} (h : Memory.wfFrom font lo m = true)
    (h' : Memory.wfFrom font lo m' = true)
    (hr : ∀ a, Memory.read font m a = Memory.read font m' a) : m = m' := by
  induction m generalizing lo m' with
  | nil =>
    cases m' with
    | nil => rfl
    | cons c' rest' =>
      obtain ⟨c', d'⟩ := c'
      obtain ⟨-, -, h3, -⟩ := Memory.wfFrom_cons_iff.1 h'
      exact absurd (by simpa [Memory.read] using (hr c').symm) h3
  | cons c rest ih =>
    obtain ⟨c, d⟩ := c
    obtain ⟨h1, h2, h3, h4⟩ := Memory.wfFrom_cons_iff.1 h
    cases m' with
    | nil => exact absurd (by simpa [Memory.read] using hr c) h3
    | cons c' rest' =>
      obtain ⟨c', d'⟩ := c'
      obtain ⟨h1', h2', h3', h4'⟩ := Memory.wfFrom_cons_iff.1 h'
      have hcc : c = c' := by
        rcases Nat.lt_trichotomy c c' with hlt | heq | hgt
        · have := hr c
          rw [Memory.read_eq_unlisted (Memory.wfFrom_cons_iff.2 ⟨Nat.le_refl c', h2', h3', h4'⟩) hlt]
            at this
          exact absurd (by simpa [Memory.read] using this) h3
        · exact heq
        · have := hr c'
          rw [Memory.read_eq_unlisted (Memory.wfFrom_cons_iff.2 ⟨Nat.le_refl c, h2, h3, h4⟩) hgt]
            at this
          exact absurd (by simpa [Memory.read] using this.symm) h3'
      subst hcc
      have hd : d = d' := by simpa [Memory.read] using hr c
      subst hd
      refine congrArg _ (ih h4 h4' fun a => ?_)
      by_cases ha : a = c
      · subst ha
        rw [Memory.read_eq_unlisted h4 (Nat.lt_succ_self a),
          Memory.read_eq_unlisted h4' (Nat.lt_succ_self a)]
      · simpa [Memory.read, ha] using hr a

/-! ## The range check (R52, R65) -/

theorem firstOutOfRange_eq_none {base count : Nat} :
    firstOutOfRange base count = none ↔ count = 0 ∨ base + count ≤ memorySize := by
  unfold firstOutOfRange
  split
  · rename_i h
    constructor
    · intro hn; cases hn
    · omega
  · simp only [true_iff]; omega

/-- The address the check answers is the lowest of the `count` that is out of range. -/
theorem firstOutOfRange_eq_some {base count a : Nat} :
    firstOutOfRange base count = some a ↔
      a = max base memorySize ∧ base ≤ a ∧ a < base + count := by
  unfold firstOutOfRange
  split
  · rename_i h
    simp only [Option.some.injEq]
    omega
  · constructor
    · intro hn; cases hn
    · omega

/-! ## The state's bytes -/

@[simp] theorem State.readByte_setReg (s : State) (x : Reg) (b : Byte) (a : Nat) :
    (s.setReg x b).readByte a = s.readByte a := rfl

@[simp] theorem State.readByte_setFlag (s : State) (f : Bool) (a : Nat) :
    (s.setFlag f).readByte a = s.readByte a := rfl

@[simp] theorem State.readByte_advanceI (s : State) (x : Reg) (a : Nat) :
    (s.advanceI x).readByte a = s.readByte a := rfl

theorem State.readByte_storeBytes_outside (s : State) {a a' : Nat} {l : List Byte}
    (hout : a' < a ∨ a + l.length ≤ a') : (s.storeBytes a l).readByte a' = s.readByte a' :=
  Memory.read_writeBytes_outside hout

theorem State.readByte_storeBytes_inside (s : State) {a k : Nat} {l : List Byte}
    (h : Memory.wf s.config.font s.mem = true) (hin : a + l.length ≤ memorySize)
    (hk : k < l.length) : (s.storeBytes a l).readByte (a + k) = l[k] :=
  Memory.read_writeBytes_inside h hin hk

theorem State.storeBytes_keeps_wf (s : State) {a : Nat} {l : List Byte}
    (ha : a + l.length ≤ memorySize) (h : Memory.wf s.config.font s.mem = true) :
    Memory.wf (s.storeBytes a l).config.font (s.storeBytes a l).mem = true :=
  Memory.writeBytes_keeps_wf ha h

theorem State.reset_mem_wf : Memory.wf State.reset.config.font State.reset.mem = true := rfl

end Sys2Proof.Machine
end

