-- ==== Sys2Proof/Laws/Registers.lean ====
section
/-!
SUPPORT. Reading a register after a write, the two orders VF is written in, and the call stack's push
and pop.
-/
namespace Sys2Proof.Machine

theorem State.reg_setReg (s : State) (x r : Reg) (b : Byte) :
    (s.setReg x b).reg r = if r = x then b else s.reg r := by
  simp only [State.reg, State.setReg, Fin.getElem_fin, Vector.getElem_set, Fin.ext_iff, eq_comm]

@[simp] theorem State.reg_setReg_same (s : State) (x : Reg) (b : Byte) :
    (s.setReg x b).reg x = b := by simp [State.reg_setReg]

theorem State.reg_setReg_ne (s : State) {x r : Reg} (b : Byte) (h : r ≠ x) :
    (s.setReg x b).reg r = s.reg r := by simp [State.reg_setReg, h]

theorem State.reg_setFlag (s : State) (f : Bool) (r : Reg) :
    (s.setFlag f).reg r = if r = VF then flagByte f else s.reg r := State.reg_setReg s VF r _

/-- R23: the flag is written last, so it replaces data written to VF. -/
theorem State.reg_dataThenFlag (s : State) (x r : Reg) (b : Byte) (f : Bool) :
    (s.dataThenFlag x b f).reg r = if r = VF then flagByte f else if r = x then b else s.reg r := by
  rw [State.dataThenFlag, State.reg_setFlag, State.reg_setReg]

theorem State.reg_logicQuirk (s : State) (r : Reg) :
    s.logicQuirk.reg r = if s.config.resetVfOnLogic = true ∧ r = VF then 0x00 else s.reg r := by
  unfold State.logicQuirk
  cases s.config.resetVfOnLogic
  · simp
  · simp [State.reg_setFlag, flagByte]

/-- Two states whose registers all read alike have the same register file. -/
theorem State.v_eq_of_reg_eq {s t : State} (h : ∀ r, t.reg r = s.reg r) : t.v = s.v :=
  Vector.ext fun k hk => h ⟨k, hk⟩

/-! ## The call stack (R30) -/

theorem State.push?_eq_none {s : State} {ret : Word} : s.push? ret = none ↔ s.sp.val = 16 := by
  unfold State.push?
  split
  · simp; omega
  · simp; omega

/-- Everything a push does: the depth grows by one and the old depth's entry holds the value. -/
theorem State.push?_eq_some {s t : State} {ret : Word} (h : s.push? ret = some t) :
    ∃ hlt : s.sp.val < 16,
      t = { s with stack := s.stack.set s.sp.val ret hlt, sp := ⟨s.sp.val + 1, by omega⟩ } := by
  unfold State.push? at h
  split at h
  · exact ⟨‹_›, (Option.some.inj h).symm⟩
  · cases h

theorem State.pop?_eq_none {s : State} : s.pop? = none ↔ s.sp.val = 0 := by
  unfold State.pop?
  split
  · simp; omega
  · simp; omega

/-- Everything a pop does: the depth shrinks by one and the new depth's entry is the value. -/
theorem State.pop?_eq_some {s t : State} {target : Word} (h : s.pop? = some (target, t)) :
    ∃ hlt : s.sp.val - 1 < 16, 0 < s.sp.val ∧
      target = s.stack[s.sp.val - 1] ∧ t = { s with sp := ⟨s.sp.val - 1, by omega⟩ } := by
  unfold State.pop? at h
  split at h
  · obtain ⟨h1, h2⟩ := Prod.mk.inj (Option.some.inj h)
    exact ⟨by omega, ‹_›, h1.symm, h2.symm⟩
  · cases h

end Sys2Proof.Machine
end

