-- ==== Sys2Proof/Laws/Ops.lean ====
section
/-!
SUPPORT. What each way of ending an instruction can do, said once: the lemmas a proof about a meaning
cites instead of unfolding `complete`, `retry`, `raise`, `withDataAccess` or `keyTest`.
-/
namespace Sys2Proof.Machine

@[simp] theorem complete_eq_next {s t : State} :
    complete s = .next t ↔ t = { s with status := some .completed } := by
  simp [complete, eq_comm]

@[simp] theorem retry_eq_next {s t : State} :
    retry s = .next t ↔ t = { s with pc := s.pc - 2, status := some .retry } := by
  simp [retry, State.instrAddr, eq_comm]

@[simp] theorem raise_eq_next {s t : State} {c : FaultCause} :
    raise c s = .next t ↔ t = s.takeFault (s.pc - 2) c := by
  simp [raise, State.instrAddr, eq_comm]

/-- An access with every address in range is its effect, completed. -/
theorem withDataAccess_in_range {instr : Instr} {count : Nat} {s e : State}
    (h : count = 0 ∨ s.i.toNat + count ≤ memorySize) :
    withDataAccess instr count s e = complete e := by
  rw [withDataAccess, firstOutOfRange_eq_none.2 h]

/-- An access with an address out of range is the fault of R213 and nothing else. -/
theorem withDataAccess_out_of_range {instr : Instr} {count : Nat} {s e : State} (hpos : 0 < count)
    (h : memorySize < s.i.toNat + count) :
    withDataAccess instr count s e =
      raise (.dataOutOfRange (encode instr) (max s.i.toNat memorySize)) s := by
  rw [withDataAccess, firstOutOfRange_eq_some.2 ⟨rfl, by omega, by omega⟩]

/-- The two cases of an access. -/
theorem withDataAccess_cases {instr : Instr} {count : Nat} {s e t : State}
    (h : withDataAccess instr count s e = .next t) :
    (count = 0 ∨ s.i.toNat + count ≤ memorySize) ∧ t = { e with status := some .completed } ∨
      (memorySize < s.i.toNat + count ∧ 0 < count) ∧
        t = s.takeFault (s.pc - 2) (.dataOutOfRange (encode instr) (max s.i.toNat memorySize)) := by
  by_cases hr : count = 0 ∨ s.i.toNat + count ≤ memorySize
  · rw [withDataAccess_in_range hr] at h
    exact .inl ⟨hr, complete_eq_next.1 h⟩
  · rw [withDataAccess_out_of_range (by omega) (by omega)] at h
    exact .inr ⟨by omega, raise_eq_next.1 h⟩

/-- R185: below 16 the key is the register's value, under either policy. -/
theorem keyIndex_of_le {p : KeyIndexPolicy} {b : Byte} (h : b.toNat ≤ 15) :
    ∃ k : Key, keyIndex p b = some k ∧ k.val = b.toNat := by
  refine ⟨lowNibble b, by unfold keyIndex; rw [if_pos h], ?_⟩
  simp only [lowNibble, BitVec.val_toFin, BitVec.extractLsb'_toNat, Nat.shiftRight_zero]
  omega

/-- R186: the latched key is down, and no smaller one is. -/
theorem firstKeyDown_eq_some {keys : Keypad} {k : Key} :
    firstKeyDown keys = some k ↔ keys[k] = true ∧ ∀ j < k, keys[j] = false := by
  constructor
  · intro h
    have hp := List.find?_some h
    refine ⟨by simpa using hp, fun j hj => ?_⟩
    obtain ⟨-, as, bs, hab, hno⟩ := List.find?_eq_some_iff_append.1 h
    have hmem : j ∈ as := by
      have hsorted : (as ++ k :: bs).Pairwise (· < ·) := hab ▸ List.pairwise_lt_finRange 16
      have hj' : j ∈ as ++ k :: bs := hab ▸ List.mem_finRange j
      rcases List.mem_append.1 hj' with h1 | h1
      · exact h1
      · rcases List.mem_cons.1 h1 with h2 | h2
        · exact absurd hj (by simp [h2])
        · have := (List.pairwise_cons.1 (List.pairwise_append.1 hsorted).2.1).1 j h2
          exact absurd hj (not_lt.2 this.le)
    simpa using hno j hmem
  · rintro ⟨hk, hno⟩
    rcases h : firstKeyDown keys with _ | k'
    · have := List.find?_eq_none.1 h k (List.mem_finRange k)
      exact absurd hk this
    · have hk' := List.find?_some h
      rcases lt_trichotomy k' k with hlt | heq | hgt
      · have := hno k' hlt
        simp_all
      · rw [heq]
      · obtain ⟨-, as, bs, hab, hno'⟩ := List.find?_eq_some_iff_append.1 h
        have hsorted : (as ++ k' :: bs).Pairwise (· < ·) := hab ▸ List.pairwise_lt_finRange 16
        have hmem : k ∈ as ++ k' :: bs := hab ▸ List.mem_finRange k
        rcases List.mem_append.1 hmem with h1 | h1
        · have := hno' k h1
          simp_all
        · rcases List.mem_cons.1 h1 with h2 | h2
          · exact congrArg some h2.symm
          · have := (List.pairwise_cons.1 (List.pairwise_append.1 hsorted).2.1).1 k h2
            exact absurd hgt (not_lt.2 this.le)

theorem firstKeyDown_eq_none {keys : Keypad} :
    firstKeyDown keys = none ↔ ∀ k : Key, keys[k] = false := by
  simp [firstKeyDown, List.find?_eq_none]

/-! ## The block load (R145) -/

theorem foldl_setReg_fields (t : State) (g : Nat → Reg) (h : Nat → Byte) (l : List Nat) :
    l.foldl (fun u k => u.setReg (g k) (h k)) t =
      { t with v := (l.foldl (fun u k => u.setReg (g k) (h k)) t).v } := by
  induction l generalizing t with
  | nil => rfl
  | cons k rest ih => rw [List.foldl_cons, ih]; rfl

/-- A block load changes registers only. -/
theorem loadBlock_fields (s : State) (a : Nat) (x : Reg) :
    loadBlock s a x = { s with v := (loadBlock s a x).v } :=
  foldl_setReg_fields s _ _ _

theorem reg_foldl_setReg (s t : State) (a n : Nat) (hn : n ≤ 16) (r : Reg) :
    ((List.range n).foldl (fun u k => u.setReg (Fin.ofNat 16 k) (s.readByte (a + k))) t).reg r =
      if r.val < n then s.readByte (a + r.val) else t.reg r := by
  induction n with
  | zero => simp
  | succ m ih =>
    rw [List.range_succ, List.foldl_append, List.foldl_cons, List.foldl_nil, State.reg_setReg,
      ih (by omega)]
    have hm : (Fin.ofNat 16 m).val = m := Nat.mod_eq_of_lt (by omega)
    by_cases h : r = Fin.ofNat 16 m
    · have hr : r.val = m := by rw [h, hm]
      rw [if_pos h, if_pos (by omega), hr]
    · have : r.val ≠ m := fun e => h (Fin.ext (e.trans hm.symm))
      rw [if_neg h]
      by_cases h' : r.val < m
      · rw [if_pos h', if_pos (by omega)]
      · rw [if_neg h', if_neg (by omega)]

/-- R145: registers 0 to x are loaded from memory, the others keep their values. -/
theorem reg_loadBlock (s : State) (a : Nat) (x r : Reg) :
    (loadBlock s a x).reg r = if r.val ≤ x.val then s.readByte (a + r.val) else s.reg r := by
  rw [loadBlock, reg_foldl_setReg s s a (x.val + 1) (by omega) r]
  simp only [Nat.lt_succ_iff]

theorem length_regBlock (s : State) (x : Reg) : (regBlock s x).length = x.val + 1 := by
  simp [regBlock]

theorem getElem_regBlock (s : State) (x : Reg) (k : Nat) (hk : k < (regBlock s x).length) :
    (regBlock s x)[k] = s.reg ⟨k, by rw [length_regBlock] at hk; omega⟩ := by
  simp [regBlock, State.reg]

end Sys2Proof.Machine
end

