-- ==== Sys2Proof/Laws/Cycle.lean ====
section
/-!
SUPPORT. The transactions, each said once: what fetch answers, the three cases of a cycle, a step as a
cycle and its end, and the two ways a cycle ends for the scheduler.
-/
namespace Sys2Proof.Machine

theorem State.halted_eq_false {s : State} : s.halted = false ↔ s.running := by
  simp [State.halted, State.running]

theorem State.halted_eq_true {s : State} : s.halted = true ↔ ¬ s.running := by
  rw [← State.halted_eq_false]; simp

/-- The word at PC, big-endian (R56, R57). -/
def State.wordAtPc (s : State) : Word :=
  wordOfBytes (s.readByte s.pc.toNat) (s.readByte (s.pc.toNat + 1))

theorem fetch_in_range {s : State} (h : s.pc.toNat + 1 < memorySize) :
    fetch s = some (s.wordAtPc, { s with pc := s.pc + 2 }) := by
  rw [fetch, if_neg (by omega)]; rfl

theorem fetch_out_of_range {s : State} (h : memorySize ≤ s.pc.toNat + 1) : fetch s = none := by
  rw [fetch, if_pos h]

theorem State.fetches_iff {s : State} {w : Word} :
    s.fetches w ↔ s.pc.toNat + 1 < memorySize ∧ s.wordAtPc = w := by
  unfold State.fetches
  by_cases h : s.pc.toNat + 1 < memorySize
  · rw [fetch_in_range h]; simp [h]
  · rw [fetch_out_of_range (by omega)]; simp [h]

theorem cycle_of_halted {s : State} {keys : Keypad} {rnd : Byte} {fci : Nat}
    (h : ¬ s.running) : cycle keys rnd fci s = .next { s with status := some .halted } := by
  rw [cycle, if_pos (State.halted_eq_true.2 h)]

theorem cycle_of_fetch_fault {s : State} {keys : Keypad} {rnd : Byte} {fci : Nat} (h : s.running)
    (hpc : memorySize ≤ s.pc.toNat + 1) :
    cycle keys rnd fci s = .next (s.takeFault s.pc .fetchOutOfRange) := by
  rw [cycle, if_neg (by simp [State.halted_eq_false.2 h]), fetch_out_of_range hpc]

/-- R80: a running core with two bytes at PC executes the decoded instruction, PC past it and the inputs
latched. -/
theorem cycle_of_fetch {s : State} {keys : Keypad} {rnd : Byte} {fci : Nat} (h : s.running)
    (hpc : s.pc.toNat + 1 < memorySize) :
    cycle keys rnd fci s =
      exec (decode s.wordAtPc) { s with pc := s.pc + 2, keys := keys, rnd := rnd, fci := fci } := by
  rw [cycle, if_neg (by simp [State.halted_eq_false.2 h]), fetch_in_range hpc]
  rfl

/-- Everything a cycle can be. -/
theorem cycle_cases {s t : State} {keys : Keypad} {rnd : Byte} {fci : Nat}
    (h : cycle keys rnd fci s = .next t) :
    (¬ s.running ∧ t = { s with status := some .halted }) ∨
      (s.running ∧ memorySize ≤ s.pc.toNat + 1 ∧ t = s.takeFault s.pc .fetchOutOfRange) ∨
      (s.running ∧ s.pc.toNat + 1 < memorySize ∧
        exec (decode s.wordAtPc) { s with pc := s.pc + 2, keys := keys, rnd := rnd, fci := fci } =
          .next t) := by
  by_cases hr : s.running
  · by_cases hpc : s.pc.toNat + 1 < memorySize
    · rw [cycle_of_fetch hr hpc] at h
      exact .inr (.inr ⟨hr, hpc, h⟩)
    · rw [cycle_of_fetch_fault hr (by omega)] at h
      exact .inr (.inl ⟨hr, by omega, (Host.Outcome.next.inj h).symm⟩)
  · rw [cycle_of_halted hr] at h
    exact .inl ⟨hr, (Host.Outcome.next.inj h).symm⟩

/-- A step is a cycle with the scheduler's inputs and what follows it. -/
theorem step_cases {s s' : State} (h : step s = .next s') :
    ∃ t, cycle s.nextKeys s.nextRnd s.fci s.consumeInput = .next t ∧ s' = endCycle t := by
  unfold step at h
  split at h
  · exact ⟨_, ‹_›, (Host.Outcome.next.inj h).symm⟩
  · cases h
  · cases h

theorem endCycle_mid_tick {s : State} (h : s.tickEnds = false) :
    endCycle s = { s with fci := s.fci + 1 } := by rw [endCycle, if_neg (by simp [h])]

theorem endCycle_tick_end {s : State} (h : s.tickEnds = true) : endCycle s = endTick s := by
  rw [endCycle, if_pos h]

/-! ## The host between ticks -/

theorem betweenTicks_of_no_action {s : State} (h : s.hostActions = []) : betweenTicks s = s := by
  rw [betweenTicks, h]

/-- What holds of the state and survives every host action survives the whole gap between two ticks. -/
theorem betweenTicks_keeps {P : State → Prop} {s : State}
    (hrest : ∀ rest, P s → P { s with hostActions := rest })
    (hact : ∀ t a, P t → P (hostAct t a)) (h : P s) : P (betweenTicks s) := by
  unfold betweenTicks
  split
  · exact h
  · rename_i actions rest _
    have h0 := hrest rest h
    clear * - hact h0
    generalize ({ s with hostActions := rest } : State) = t at h0
    induction actions generalizing t with
    | nil => exact h0
    | cons a as ih => exact ih _ (hact t a h0)

/-- Everything `load` can do (R240, R241). -/
theorem load_cases (program : Option (List Byte)) (config : Configuration) (s : State) :
    (∃ e, load program config s = loadFails e s) ∨
      ∃ bytes, program = some bytes ∧ bytes.length ≤ programCapacity ∧ 60 ≤ config.ips ∧
        load program config s =
          { initialise bytes { s with config := config } with lastLoad := some .ok } := by
  unfold load
  cases program with
  | none => exact .inl ⟨_, rfl⟩
  | some bytes =>
    by_cases h1 : programCapacity < bytes.length
    · exact .inl ⟨.programTooLarge, by simp [h1]⟩
    · by_cases h2 : config.ips < 60
      · exact .inl ⟨.configInvalid, by simp only [h1, h2, if_true, if_false]⟩
      · exact .inr ⟨bytes, rfl, by omega, by omega, by simp only [h1, h2, if_false]⟩

/-- Everything `reset` can do (R245). -/
theorem resetCore_cases (program : Option (List Byte)) (s : State) :
    (∃ e, resetCore program s = loadFails e s) ∨
      ∃ bytes, program = some bytes ∧ bytes.length ≤ programCapacity ∧ s.init = true ∧
        resetCore program s = { initialise bytes s with lastLoad := some .ok } := by
  unfold resetCore
  by_cases hi : s.init
  · cases program with
    | none => exact .inl ⟨.romUnreadable, by simp [hi]⟩
    | some bytes =>
      by_cases h1 : programCapacity < bytes.length
      · exact .inl ⟨.programTooLarge, by simp [hi, h1]⟩
      · exact .inr ⟨bytes, rfl, by omega, hi, by simp only [hi, h1, if_true, if_false]⟩
  · exact .inl ⟨.notLoaded, by simp [hi]⟩

/-- R243: the memory `initialise` leaves is canonical. -/
theorem initialise_mem_wf (bytes : List Byte) (s : State) (h : bytes.length ≤ programCapacity) :
    Memory.wf (initialise bytes s).config.font (initialise bytes s).mem = true :=
  Memory.writeBytes_keeps_wf (by simp only [programCapacity, programBase, memorySize] at h ⊢; omega) rfl

end Sys2Proof.Machine
end

