-- ==== Sys2Proof/Laws/Decode.lean ====
section
/-!
SUPPORT. A word as a number made of its fields (spec/30_encoding.md R71), the fields of a word built from
fields, and a word rebuilt from its own fields: what the round trips of the decoder and the encoder rest
on.
-/
namespace Sys2Proof

/-- Concatenation as a number (R8: `a` in the upper bits). -/
theorem toNat_append_eq {m n : Nat} (a : BitVec m) (b : BitVec n) :
    (a ++ b).toNat = a.toNat * 2 ^ n + b.toNat := by
  rw [BitVec.toNat_append, ← Nat.shiftLeft_add_eq_or_of_lt b.isLt, Nat.shiftLeft_eq]

section Fields

variable (w : Word)

theorem toNat_family : (family w).toNat = w.toNat / 4096 := by
  have := w.isLt
  simp only [family, BitVec.extractLsb'_toNat, Nat.shiftRight_eq_div_pow]
  omega

theorem val_fieldX : (fieldX w).val = w.toNat / 256 % 16 := by
  simp only [fieldX, BitVec.val_toFin, BitVec.extractLsb'_toNat, Nat.shiftRight_eq_div_pow]

theorem val_fieldY : (fieldY w).val = w.toNat / 16 % 16 := by
  simp only [fieldY, BitVec.val_toFin, BitVec.extractLsb'_toNat, Nat.shiftRight_eq_div_pow]

theorem toNat_fieldN : (fieldN w).toNat = w.toNat % 16 := by
  simp only [fieldN, BitVec.extractLsb'_toNat, Nat.shiftRight_eq_div_pow]; omega

theorem toNat_fieldNN : (fieldNN w).toNat = w.toNat % 256 := by
  simp only [fieldNN, BitVec.extractLsb'_toNat, Nat.shiftRight_eq_div_pow]; omega

theorem toNat_fieldNNN : (fieldNNN w).toNat = w.toNat % 4096 := by
  simp only [fieldNNN, BitVec.extractLsb'_toNat, Nat.shiftRight_eq_div_pow]; omega

end Fields

section Words

variable (f n : BitVec 4) (x y : Reg) (nn : Byte) (nnn : BitVec 12)

theorem toNat_wordFNNN : (wordFNNN f nnn).toNat = f.toNat * 4096 + nnn.toNat := by
  simp only [wordFNNN, toNat_append_eq]; omega

theorem toNat_wordFXNN :
    (wordFXNN f x nn).toNat = f.toNat * 4096 + x.val * 256 + nn.toNat := by
  have := x.isLt
  simp only [wordFXNN, toNat_append_eq, BitVec.toNat_ofNat]; omega

theorem toNat_wordFXYN :
    (wordFXYN f x y n).toNat = f.toNat * 4096 + x.val * 256 + y.val * 16 + n.toNat := by
  have := x.isLt
  have := y.isLt
  simp only [wordFXYN, toNat_append_eq, BitVec.toNat_ofNat]; omega

@[simp] theorem family_wordFNNN : family (wordFNNN f nnn) = f := by
  apply BitVec.eq_of_toNat_eq; rw [toNat_family, toNat_wordFNNN]; omega

@[simp] theorem fieldNNN_wordFNNN : fieldNNN (wordFNNN f nnn) = nnn := by
  apply BitVec.eq_of_toNat_eq; rw [toNat_fieldNNN, toNat_wordFNNN]; omega

@[simp] theorem family_wordFXNN : family (wordFXNN f x nn) = f := by
  apply BitVec.eq_of_toNat_eq; rw [toNat_family, toNat_wordFXNN]; omega

@[simp] theorem fieldX_wordFXNN : fieldX (wordFXNN f x nn) = x := by
  apply Fin.ext; rw [val_fieldX, toNat_wordFXNN]; omega

@[simp] theorem fieldNN_wordFXNN : fieldNN (wordFXNN f x nn) = nn := by
  apply BitVec.eq_of_toNat_eq; rw [toNat_fieldNN, toNat_wordFXNN]; omega

@[simp] theorem family_wordFXYN : family (wordFXYN f x y n) = f := by
  apply BitVec.eq_of_toNat_eq; rw [toNat_family, toNat_wordFXYN]; omega

@[simp] theorem fieldX_wordFXYN : fieldX (wordFXYN f x y n) = x := by
  apply Fin.ext; rw [val_fieldX, toNat_wordFXYN]; omega

@[simp] theorem fieldY_wordFXYN : fieldY (wordFXYN f x y n) = y := by
  apply Fin.ext; rw [val_fieldY, toNat_wordFXYN]; omega

@[simp] theorem fieldN_wordFXYN : fieldN (wordFXYN f x y n) = n := by
  apply BitVec.eq_of_toNat_eq; rw [toNat_fieldN, toNat_wordFXYN]; omega

end Words

section Rebuild

variable (w : Word)

theorem wordFNNN_fields : wordFNNN (family w) (fieldNNN w) = w := by
  apply BitVec.eq_of_toNat_eq
  rw [toNat_wordFNNN, toNat_family, toNat_fieldNNN]; omega

theorem wordFXNN_fields : wordFXNN (family w) (fieldX w) (fieldNN w) = w := by
  apply BitVec.eq_of_toNat_eq
  have := w.isLt
  rw [toNat_wordFXNN, toNat_family, val_fieldX, toNat_fieldNN]; omega

theorem wordFXYN_fields : wordFXYN (family w) (fieldX w) (fieldY w) (fieldN w) = w := by
  apply BitVec.eq_of_toNat_eq
  have := w.isLt
  rw [toNat_wordFXYN, toNat_family, val_fieldX, val_fieldY, toNat_fieldN]; omega

/-- R57: the two bytes of a word, high byte first, are the word. -/
theorem wordOfBytes_bytes : wordOfBytes (highByte w) (lowByte w) = w := by
  apply BitVec.eq_of_toNat_eq
  have := w.isLt
  simp only [wordOfBytes, toNat_append_eq, highByte, lowByte, BitVec.extractLsb'_toNat,
    Nat.shiftRight_eq_div_pow]
  omega

end Rebuild

end Sys2Proof
end

