-- ==== Sys2Proof/Laws/Display.lean ====
section
/-!
SUPPORT. The framebuffer, one pixel at a time: flipping one pixel, and where a sprite bit lands
(spec/43_display.md R161, R164).
-/
namespace Sys2Proof.Machine

theorem Framebuffer.pixel_flip (fb : Framebuffer) (y y' : Fin 32) (x x' : Fin 64) :
    (fb.flip y x).pixel y' x' = if y' = y ∧ x' = x then !fb.pixel y x else fb.pixel y' x' := by
  simp only [Framebuffer.pixel, Framebuffer.flip, Fin.getElem_fin, Vector.getElem_set, Fin.ext_iff]
  by_cases hy : y'.val = y.val
  · by_cases hx : x'.val = x.val
    · simp [hy, hx]
    · simp [hy, hx, Ne.symm hx]
  · simp [hy, Ne.symm hy]

@[simp] theorem Framebuffer.pixel_clear (y : Fin 32) (x : Fin 64) :
    Framebuffer.clear.pixel y x = false := by
  simp [Framebuffer.pixel, Framebuffer.clear]

/-- Two framebuffers whose pixels all agree are the same. -/
theorem Framebuffer.ext_pixel {fb fb' : Framebuffer}
    (h : ∀ (y : Fin 32) (x : Fin 64), fb.pixel y x = fb'.pixel y x) : fb = fb' :=
  Vector.ext fun y hy => Vector.ext fun x hx => h ⟨y, hy⟩ ⟨x, hx⟩

theorem Canvas.pixel_invert (cv : Canvas) (y y' : Fin 32) (x x' : Fin 64) :
    (cv.invert y x).fb.pixel y' x' =
      if y' = y ∧ x' = x then !cv.fb.pixel y x else cv.fb.pixel y' x' :=
  Framebuffer.pixel_flip cv.fb y y' x x'

/-- R164: where the column of a sprite bit is. -/
theorem columnOf_eq_some {wrap : Bool} {x0 c : Nat} {x : Fin 64} :
    columnOf wrap x0 c = some x ↔
      if wrap = true then x.val = (x0 + c) % 64 else x.val = x0 + c := by
  cases wrap
  · unfold columnOf
    split
    · rename_i h; simp at h
    · split
      · simp [Fin.ext_iff, eq_comm]
      · simp; omega
  · simp [columnOf, Fin.ext_iff, eq_comm]

/-- R164: where the row of a sprite row is. -/
theorem rowOf_eq_some {wrap : Bool} {y0 r : Nat} {y : Fin 32} :
    rowOf wrap y0 r = some y ↔
      if wrap = true then y.val = (y0 + r) % 32 else y.val = y0 + r := by
  cases wrap
  · unfold rowOf
    split
    · rename_i h; simp at h
    · split
      · simp [Fin.ext_iff, eq_comm]
      · simp; omega
  · simp [rowOf, Fin.ext_iff, eq_comm]

end Sys2Proof.Machine
end

