-- ==== Sys2Proof/Laws/PerInstr.lean ====
section
/-!
SUPPORT. Per instruction: the family nibble of the encoded instruction is the one the opcode map gives
its row (spec/30_encoding.md R71, R73, R75).
-/
namespace Sys2Proof

/-- The family nibble of an instruction's row or, for an undefined word, of its family (R73, R75). -/
def Instr.familyNibble : Instr → BitVec 4
  | .cls | .ret | .nop0 _ => 0x0
  | .jp _ => 0x1
  | .call _ => 0x2
  | .seImm _ _ => 0x3
  | .sneImm _ _ => 0x4
  | .seReg _ _ | .nop5 _ _ _ => 0x5
  | .ldImm _ _ => 0x6
  | .addImm _ _ => 0x7
  | .ldReg _ _ | .orReg _ _ | .andReg _ _ | .xorReg _ _ | .addReg _ _ | .subReg _ _ | .shrReg _ _
  | .subnReg _ _ | .shlReg _ _ | .nop8 _ _ _ => 0x8
  | .sneReg _ _ | .nop9 _ _ _ => 0x9
  | .ldI _ => 0xA
  | .jpV0 _ => 0xB
  | .rnd _ _ => 0xC
  | .drw _ _ _ => 0xD
  | .skp _ | .sknp _ | .nopE _ _ => 0xE
  | .ldVxDt _ | .ldVxK _ | .ldDtVx _ | .ldStVx _ | .addI _ | .ldF _ | .ldB _ | .storeRegs _
  | .loadRegs _ | .nopF _ _ => 0xF

/-- The statement of the family EncodeFamily. -/
def Laws.EncodeFamily.Statement (i : Instr) : Prop := family (encode i) = i.familyNibble

theorem Laws.EncodeFamily.cls : Laws.EncodeFamily.Statement .cls := family_wordFNNN _ _
theorem Laws.EncodeFamily.ret : Laws.EncodeFamily.Statement .ret := family_wordFNNN _ _
theorem Laws.EncodeFamily.jp (nnn : BitVec 12) : Laws.EncodeFamily.Statement (.jp nnn) := family_wordFNNN _ _
theorem Laws.EncodeFamily.call (nnn : BitVec 12) : Laws.EncodeFamily.Statement (.call nnn) := family_wordFNNN _ _
theorem Laws.EncodeFamily.seImm (x : Reg) (nn : Byte) : Laws.EncodeFamily.Statement (.seImm x nn) := family_wordFXNN _ _ _
theorem Laws.EncodeFamily.sneImm (x : Reg) (nn : Byte) : Laws.EncodeFamily.Statement (.sneImm x nn) := family_wordFXNN _ _ _
theorem Laws.EncodeFamily.seReg (x : Reg) (y : Reg) : Laws.EncodeFamily.Statement (.seReg x y) := family_wordFXYN _ _ _ _
theorem Laws.EncodeFamily.ldImm (x : Reg) (nn : Byte) : Laws.EncodeFamily.Statement (.ldImm x nn) := family_wordFXNN _ _ _
theorem Laws.EncodeFamily.addImm (x : Reg) (nn : Byte) : Laws.EncodeFamily.Statement (.addImm x nn) := family_wordFXNN _ _ _
theorem Laws.EncodeFamily.ldReg (x : Reg) (y : Reg) : Laws.EncodeFamily.Statement (.ldReg x y) := family_wordFXYN _ _ _ _
theorem Laws.EncodeFamily.orReg (x : Reg) (y : Reg) : Laws.EncodeFamily.Statement (.orReg x y) := family_wordFXYN _ _ _ _
theorem Laws.EncodeFamily.andReg (x : Reg) (y : Reg) : Laws.EncodeFamily.Statement (.andReg x y) := family_wordFXYN _ _ _ _
theorem Laws.EncodeFamily.xorReg (x : Reg) (y : Reg) : Laws.EncodeFamily.Statement (.xorReg x y) := family_wordFXYN _ _ _ _
theorem Laws.EncodeFamily.addReg (x : Reg) (y : Reg) : Laws.EncodeFamily.Statement (.addReg x y) := family_wordFXYN _ _ _ _
theorem Laws.EncodeFamily.subReg (x : Reg) (y : Reg) : Laws.EncodeFamily.Statement (.subReg x y) := family_wordFXYN _ _ _ _
theorem Laws.EncodeFamily.shrReg (x : Reg) (y : Reg) : Laws.EncodeFamily.Statement (.shrReg x y) := family_wordFXYN _ _ _ _
theorem Laws.EncodeFamily.subnReg (x : Reg) (y : Reg) : Laws.EncodeFamily.Statement (.subnReg x y) := family_wordFXYN _ _ _ _
theorem Laws.EncodeFamily.shlReg (x : Reg) (y : Reg) : Laws.EncodeFamily.Statement (.shlReg x y) := family_wordFXYN _ _ _ _
theorem Laws.EncodeFamily.sneReg (x : Reg) (y : Reg) : Laws.EncodeFamily.Statement (.sneReg x y) := family_wordFXYN _ _ _ _
theorem Laws.EncodeFamily.ldI (nnn : BitVec 12) : Laws.EncodeFamily.Statement (.ldI nnn) := family_wordFNNN _ _
theorem Laws.EncodeFamily.jpV0 (nnn : BitVec 12) : Laws.EncodeFamily.Statement (.jpV0 nnn) := family_wordFNNN _ _
theorem Laws.EncodeFamily.rnd (x : Reg) (nn : Byte) : Laws.EncodeFamily.Statement (.rnd x nn) := family_wordFXNN _ _ _
theorem Laws.EncodeFamily.drw (x : Reg) (y : Reg) (n : BitVec 4) : Laws.EncodeFamily.Statement (.drw x y n) := family_wordFXYN _ _ _ _
theorem Laws.EncodeFamily.skp (x : Reg) : Laws.EncodeFamily.Statement (.skp x) := family_wordFXNN _ _ _
theorem Laws.EncodeFamily.sknp (x : Reg) : Laws.EncodeFamily.Statement (.sknp x) := family_wordFXNN _ _ _
theorem Laws.EncodeFamily.ldVxDt (x : Reg) : Laws.EncodeFamily.Statement (.ldVxDt x) := family_wordFXNN _ _ _
theorem Laws.EncodeFamily.ldVxK (x : Reg) : Laws.EncodeFamily.Statement (.ldVxK x) := family_wordFXNN _ _ _
theorem Laws.EncodeFamily.ldDtVx (x : Reg) : Laws.EncodeFamily.Statement (.ldDtVx x) := family_wordFXNN _ _ _
theorem Laws.EncodeFamily.ldStVx (x : Reg) : Laws.EncodeFamily.Statement (.ldStVx x) := family_wordFXNN _ _ _
theorem Laws.EncodeFamily.addI (x : Reg) : Laws.EncodeFamily.Statement (.addI x) := family_wordFXNN _ _ _
theorem Laws.EncodeFamily.ldF (x : Reg) : Laws.EncodeFamily.Statement (.ldF x) := family_wordFXNN _ _ _
theorem Laws.EncodeFamily.ldB (x : Reg) : Laws.EncodeFamily.Statement (.ldB x) := family_wordFXNN _ _ _
theorem Laws.EncodeFamily.storeRegs (x : Reg) : Laws.EncodeFamily.Statement (.storeRegs x) := family_wordFXNN _ _ _
theorem Laws.EncodeFamily.loadRegs (x : Reg) : Laws.EncodeFamily.Statement (.loadRegs x) := family_wordFXNN _ _ _
theorem Laws.EncodeFamily.nop0 (nnn : BitVec 12) : Laws.EncodeFamily.Statement (.nop0 nnn) := family_wordFNNN _ _
theorem Laws.EncodeFamily.nop5 (x : Reg) (y : Reg) (n : BitVec 4) : Laws.EncodeFamily.Statement (.nop5 x y n) := family_wordFXYN _ _ _ _
theorem Laws.EncodeFamily.nop8 (x : Reg) (y : Reg) (n : BitVec 4) : Laws.EncodeFamily.Statement (.nop8 x y n) := family_wordFXYN _ _ _ _
theorem Laws.EncodeFamily.nop9 (x : Reg) (y : Reg) (n : BitVec 4) : Laws.EncodeFamily.Statement (.nop9 x y n) := family_wordFXYN _ _ _ _
theorem Laws.EncodeFamily.nopE (x : Reg) (nn : Byte) : Laws.EncodeFamily.Statement (.nopE x nn) := family_wordFXNN _ _ _
theorem Laws.EncodeFamily.nopF (x : Reg) (nn : Byte) : Laws.EncodeFamily.Statement (.nopF x nn) := family_wordFXNN _ _ _

end Sys2Proof
end

