-- ==== Sys2Proof/Tests/Slice0.lean ====
section
/-!
SUPPORT. The model's own tests. Expected values are those of the spec's vectors in
spec/95_test_vectors.md, whose start state is the one after a `load`, here `State.reset`; a test that
takes its values from elsewhere names the rule it computed them from.
-/
namespace Sys2Proof.Tests
open Sys2Proof Sys2Proof.Machine

set_option maxRecDepth 8000

/-! ## Helpers -/

/-- What a next state shows; `none` where there is no next state. -/
def observe {α : Type} (f : State → α) : Host.Outcome State Fault Refusal → Option α
  | .next t => some (f t)
  | .fault _ => none
  | .refused _ => none

/-- One cycle that runs the word `w` placed at PC, with the keypad, random byte and index the state
holds. -/
def runWord (w : Nat) (s : State) : Host.Outcome State Fault Refusal :=
  cycle s.keys s.rnd s.fci (s.withFetchWord 16 w)

/-- The reset state with some registers set. -/
def regs (l : List (Reg × Byte)) : State := l.foldl (fun t p => t.setReg p.1 p.2) State.reset

/-- The keypad with the listed keys down. -/
def down (l : List Key) : Keypad := Vector.ofFn fun k => l.contains k

/-- The pixels that are on, as (row, column), in reading order of the listed rows and columns. -/
def onPixels (rows : List (Fin 32)) (columns : List (Fin 64)) (s : State) : List (Nat × Nat) :=
  rows.flatMap fun r =>
    columns.filterMap fun c => if s.fb.pixel r c then some (r.val, c.val) else none

/-- A framebuffer with one pixel on. -/
def onePixel (r : Fin 32) (c : Fin 64) : Framebuffer := Framebuffer.clear.flip r c

/-- The state with bytes stored from an address on. -/
def withBytes (a : Nat) (bytes : List Byte) (s : State) : State := s.storeBytes a bytes

/-! ## Well-formedness: each check refuses an ill-formed term (R75) -/

theorem test_wf_nop0_refuses_cls : (Instr.nop0 0x0E0).wellFormed = false := by decide
theorem test_wf_nop5_refuses_se : (Instr.nop5 1 2 0x0).wellFormed = false := by decide
theorem test_wf_nop8_refuses_ld : (Instr.nop8 1 2 0x0).wellFormed = false := by decide
theorem test_wf_nop9_refuses_sne : (Instr.nop9 1 2 0x0).wellFormed = false := by decide
theorem test_wf_nopE_refuses_skp : (Instr.nopE 1 0x9E).wellFormed = false := by decide
theorem test_wf_nopF_refuses_ld_dt : (Instr.nopF 1 0x07).wellFormed = false := by decide

/-! ## Decoding: a word of every constructor, written from the patterns of R73 and the fields of R71 -/

theorem test_decode_family_0 :
    decode 0x00E0 = .cls ∧ decode 0x00EE = .ret ∧ decode 0x0123 = .nop0 0x123 := by decide
theorem test_decode_families_1_to_7 :
    decode 0x1ABC = .jp 0xABC ∧ decode 0x2ABC = .call 0xABC ∧ decode 0x3ABC = .seImm 0xA 0xBC ∧
    decode 0x4ABC = .sneImm 0xA 0xBC ∧ decode 0x5AB0 = .seReg 0xA 0xB ∧
    decode 0x5AB1 = .nop5 0xA 0xB 0x1 ∧ decode 0x6ABC = .ldImm 0xA 0xBC ∧
    decode 0x7ABC = .addImm 0xA 0xBC := by decide
theorem test_decode_family_8 :
    decode 0x8AB0 = .ldReg 0xA 0xB ∧ decode 0x8AB1 = .orReg 0xA 0xB ∧
    decode 0x8AB2 = .andReg 0xA 0xB ∧ decode 0x8AB3 = .xorReg 0xA 0xB ∧
    decode 0x8AB4 = .addReg 0xA 0xB ∧ decode 0x8AB5 = .subReg 0xA 0xB ∧
    decode 0x8AB6 = .shrReg 0xA 0xB ∧ decode 0x8AB7 = .subnReg 0xA 0xB ∧
    decode 0x8ABE = .shlReg 0xA 0xB ∧ decode 0x8ABF = .nop8 0xA 0xB 0xF := by decide
theorem test_decode_families_9_to_D :
    decode 0x9AB0 = .sneReg 0xA 0xB ∧ decode 0x9AB4 = .nop9 0xA 0xB 0x4 ∧
    decode 0xAABC = .ldI 0xABC ∧ decode 0xBABC = .jpV0 0xABC ∧ decode 0xCABC = .rnd 0xA 0xBC ∧
    decode 0xDABC = .drw 0xA 0xB 0xC := by decide
theorem test_decode_family_E :
    decode 0xEA9E = .skp 0xA ∧ decode 0xEAA1 = .sknp 0xA ∧ decode 0xEA9F = .nopE 0xA 0x9F := by decide
theorem test_decode_family_F :
    decode 0xFA07 = .ldVxDt 0xA ∧ decode 0xFA0A = .ldVxK 0xA ∧ decode 0xFA15 = .ldDtVx 0xA ∧
    decode 0xFA18 = .ldStVx 0xA ∧ decode 0xFA1E = .addI 0xA ∧ decode 0xFA29 = .ldF 0xA ∧
    decode 0xFA33 = .ldB 0xA ∧ decode 0xFA55 = .storeRegs 0xA ∧ decode 0xFA65 = .loadRegs 0xA ∧
    decode 0xFA00 = .nopF 0xA 0x00 := by decide
theorem test_decode_table_word :
    decodeTableWord 16 0x6005 = some (.ldImm 0 0x05) ∧ decodeTableWord 16 0xF155 = some (.storeRegs 1) :=
  by decide

/-! ## Arithmetic and logic -/

theorem test_6xnn_writes_vf_as_data :
    observe (fun t => (t.reg VF, t.pc)) (runWord 0x6F12 .reset) = some (0x12, 0x0202) := by decide
theorem test_7xnn_wraps_without_a_flag :
    observe (fun t => (t.reg 0, t.reg VF)) (runWord 0x7001 (regs [(0, 0xFF), (15, 0x55)])) =
      some (0x00, 0x55) := by decide
theorem test_8xy0_copies :
    observe (fun t => (t.reg 1, t.reg VF)) (runWord 0x8120
      { regs [(2, 0x3C), (15, 0x07)] with
        config := { Configuration.atReset with resetVfOnLogic := true } }) = some (0x3C, 0x07) := by
  decide
theorem test_8xy1_keeps_vf :
    observe (fun t => (t.reg 1, t.reg VF)) (runWord 0x8121 (regs [(1, 0x0F), (2, 0xF0), (15, 0x07)])) =
      some (0xFF, 0x07) := by decide
theorem test_8xy1_quirk_wins_over_vf_as_data :
    observe (fun t => t.reg VF) (runWord 0x8F21
      { regs [(15, 0x0F), (2, 0xF0)] with
        config := { Configuration.atReset with resetVfOnLogic := true } }) = some 0x00 := by decide
theorem test_8xy2_and :
    observe (fun t => t.reg 1) (runWord 0x8122 (regs [(1, 0x3C), (2, 0x0F)])) = some 0x0C := by decide
theorem test_8xy3_xor :
    observe (fun t => t.reg 1) (runWord 0x8123 (regs [(1, 0x3C), (2, 0x0F)])) = some 0x33 := by decide
theorem test_8xy4_carries_in_place :
    observe (fun t => (t.reg 1, t.reg VF)) (runWord 0x8114 (regs [(1, 0x90)])) = some (0x20, 0x01) := by
  decide
theorem test_8xy4_flag_replaces_the_sum_in_vf :
    observe (fun t => t.reg VF) (runWord 0x8F14 (regs [(15, 0x10), (1, 0xF5)])) = some 0x01 := by decide
theorem test_8xy5_borrows :
    observe (fun t => (t.reg 1, t.reg VF)) (runWord 0x8125 (regs [(1, 0x03), (2, 0x05)])) =
      some (0xFE, 0x00) := by decide
theorem test_8xy5_equal_is_no_borrow :
    observe (fun t => (t.reg 1, t.reg VF)) (runWord 0x8125 (regs [(1, 0x05), (2, 0x05)])) =
      some (0x00, 0x01) := by decide
theorem test_8xy6_ignores_the_old_vx :
    observe (fun t => (t.reg 1, t.reg VF)) (runWord 0x8126 (regs [(1, 0xFF), (2, 0x02)])) =
      some (0x01, 0x00) := by decide
theorem test_8xy6_reads_vf_before_the_flag :
    observe (fun t => (t.reg 1, t.reg VF)) (runWord 0x81F6 (regs [(15, 0x81)])) =
      some (0x40, 0x01) := by decide
theorem test_8xy7_subtracts_the_other_way :
    observe (fun t => (t.reg 1, t.reg VF)) (runWord 0x8127 (regs [(1, 0x05), (2, 0x03)])) =
      some (0xFE, 0x00) := by decide
theorem test_8xy7_no_borrow :
    observe (fun t => (t.reg 1, t.reg VF)) (runWord 0x8127 (regs [(1, 0x03), (2, 0x05)])) =
      some (0x02, 0x01) := by decide
theorem test_8xye_shifts_out_the_high_bit :
    observe (fun t => (t.reg 1, t.reg VF)) (runWord 0x812E (regs [(2, 0xB1)])) =
      some (0x62, 0x01) := by decide
theorem test_8xye_flag_replaces_the_data_in_vf :
    observe (fun t => t.reg VF) (runWord 0x8F1E (regs [(1, 0x81)])) = some 0x01 := by decide

/-! ## Control flow -/

theorem test_1nnn_jumps :
    observe State.pc (runWord 0x1FFF .reset) = some 0x0FFF := by decide
theorem test_2nnn_pushes :
    observe (fun t => (t.stack[0], t.sp.val, t.pc)) (runWord 0x2210 { State.reset with pc := 0x0204 }) =
      some (0x0206, 1, 0x0210) := by decide
theorem test_2nnn_full_stack_faults_by_policy :
    observe (fun t => (t.pc, t.sp.val, t.fault, t.status)) (runWord 0x2300
      { State.reset with sp := 16, config := { Configuration.atReset with stackOverflow := .fault } }) =
      some (0x0200, 16, some { pc := 0x0200, cause := .stackOverflow 0x2300 }, some .faulted) := by decide
theorem test_00ee_pops :
    observe (fun t => (t.pc, t.sp.val)) (runWord 0x00EE
      { State.reset with pc := 0x0210, sp := 1, stack := State.reset.stack.set 0 0x0206 }) =
      some (0x0206, 0) := by decide
theorem test_00ee_empty_stack_is_ignored :
    observe (fun t => (t.pc, t.sp.val, t.status)) (runWord 0x00EE .reset) =
      some (0x0202, 0, some .completed) := by decide
theorem test_3xnn_skips :
    observe State.pc (runWord 0x3307 (regs [(3, 0x07)])) = some 0x0204 := by decide
theorem test_3xnn_falls_through :
    observe State.pc (runWord 0x3307 (regs [(3, 0x08)])) = some 0x0202 := by decide
theorem test_4xnn_skips :
    observe State.pc (runWord 0x4307 (regs [(3, 0x08)])) = some 0x0204 := by decide
theorem test_4xnn_falls_through :
    observe State.pc (runWord 0x4307 (regs [(3, 0x07)])) = some 0x0202 := by decide
theorem test_5xy0_skips :
    observe State.pc (runWord 0x5120 (regs [(1, 0x10), (2, 0x10)])) = some 0x0204 := by decide
theorem test_9xy0_skips :
    observe State.pc (runWord 0x9120 (regs [(1, 0x10), (2, 0x11)])) = some 0x0204 := by decide
theorem test_9xy0_same_register_falls_through :
    observe State.pc (runWord 0x9110 (regs [(1, 0x10)])) = some 0x0202 := by decide
theorem test_bnnn_adds_v0 :
    observe State.pc (runWord 0xBF80 (regs [(0, 0x80)])) = some 0x1000 := by decide
theorem test_bnnn_largest_pc :
    observe State.pc (runWord 0xBFFF (regs [(0, 0xFF)])) = some 0x10FE := by decide

/-! ## The six no-ops: 0123, 5121, 8AB8, E09F and F0FF are vectors of the spec; 9121 is R75 -/

theorem test_noop_0123 :
    observe id (runWord 0x0123 .reset) =
      some { (State.reset.withFetchWord 16 0x0123) with pc := 0x0202, status := some .completed } := by
  decide
theorem test_noop_5121_does_not_skip :
    observe State.pc (runWord 0x5121 (regs [(1, 0x10), (2, 0x10)])) = some 0x0202 := by decide
theorem test_noop_8ab8 :
    observe State.pc (runWord 0x8AB8 { State.reset with pc := 0x0300 }) = some 0x0302 := by decide
theorem test_noop_9121_does_not_skip :
    observe State.pc (runWord 0x9121 (regs [(1, 0x10), (2, 0x11)])) = some 0x0202 := by decide
theorem test_noop_e09f :
    observe (fun t => (t.pc, t.status)) (runWord 0xE09F .reset) = some (0x0202, some .completed) := by
  decide
theorem test_noop_f0ff :
    observe (fun t => (t.pc, t.status)) (runWord 0xF0FF .reset) = some (0x0202, some .completed) := by
  decide

/-! ## Index register and memory -/

theorem test_annn_sets_i : observe State.i (runWord 0xA300 .reset) = some 0x0300 := by decide
theorem test_fx1e_flag_on_the_untruncated_sum :
    observe (fun t => (t.i, t.reg VF)) (runWord 0xF01E { regs [(0, 0x01)] with i := 0xFFFF }) =
      some (0x0000, 0x01) := by decide
theorem test_fx1e_reads_vf_before_the_flag :
    observe (fun t => (t.i, t.reg VF)) (runWord 0xFF1E { regs [(15, 0x05)] with i := 0x0100 }) =
      some (0x0105, 0x00) := by decide
theorem test_fx29_low_nibble :
    observe State.i (runWord 0xF029 (regs [(0, 0x1A)])) = some 0x0082 := by decide
theorem test_fx29_full_byte :
    observe State.i (runWord 0xF029 { regs [(0, 0x1A)] with
      config := { Configuration.atReset with fontDigit := .fullByte } }) = some 0x00D2 := by decide
theorem test_fx33_at_the_top_of_memory :
    observe (fun t => (t.readByte 0xFFD, t.readByte 0xFFE, t.readByte 0xFFF, t.i))
      (runWord 0xF033 { regs [(0, 0xFE)] with i := 0x0FFD }) = some (0x02, 0x05, 0x04, 0x0FFD) := by decide
theorem test_fx33_past_the_top_faults_whole :
    observe (fun t => (t.readByte 0xFFE, t.readByte 0xFFF, t.fault))
      (runWord 0xF033 { regs [(0, 0xFE)] with i := 0x0FFE }) =
      some (0x00, 0x00, some { pc := 0x0200, cause := .dataOutOfRange 0xF033 0x1000 }) := by decide
theorem test_fx55_stores :
    observe (fun t => (t.readByte 0x400, t.readByte 0x401, t.readByte 0x402, t.i))
      (runWord 0xF155 { regs [(0, 0x11), (1, 0x22), (2, 0x33)] with i := 0x0400 }) =
      some (0x11, 0x22, 0x00, 0x0402) := by decide
theorem test_fx55_far_out_of_range :
    observe (fun t => (t.i, t.fault)) (runWord 0xF055 { State.reset with i := 0xFFFF }) =
      some (0xFFFF, some { pc := 0x0200, cause := .dataOutOfRange 0xF055 0xFFFF }) := by decide
theorem test_fx65_loads :
    observe (fun t => (t.reg 0, t.reg 1, t.reg 2, t.reg 3, t.i))
      (runWord 0xF265 { withBytes 0x300 [0x02, 0x05, 0x04, 0x77] .reset with i := 0x0300 }) =
      some (0x02, 0x05, 0x04, 0x00, 0x0303) := by decide
theorem test_fx65_reads_the_font :
    observe (fun t => (t.v.toList, t.i)) (runWord 0xFF65 { State.reset with i := 0x0050 }) =
      some ([0xF0, 0x90, 0x90, 0x90, 0xF0, 0x20, 0x60, 0x20, 0x20, 0x70, 0xF0, 0x10, 0xF0, 0x80, 0xF0,
        0xF0], 0x0060) := by decide

/-! ## Display -/

theorem test_00e0_clears :
    observe (fun t => (t.fb.pixel 3 5, t.reg VF))
      (runWord 0x00E0 { regs [(15, 0x07)] with fb := onePixel 3 5 }) = some (false, 0x07) := by decide
theorem test_dxyn_draws_glyph_0 :
    observe (fun t => (onPixels [0, 1, 4] [0, 1, 2, 3, 4] t, t.reg VF))
      (runWord 0xD015 { regs [(15, 0x07)] with i := 0x0050 }) =
      some ([(0, 0), (0, 1), (0, 2), (0, 3), (1, 0), (1, 3), (4, 0), (4, 1), (4, 2), (4, 3)], 0x00) := by
  decide
theorem test_dxyn_wraps_columns_and_collides :
    observe (fun t => (onPixels [0] [0, 1, 2, 3, 4, 60, 61, 62, 63] t, t.reg VF))
      (runWord 0xD011 { withBytes 0x300 [0xFF] (regs [(0, 60)]) with
        i := 0x0300, fb := onePixel 0 3, config := { Configuration.atReset with wrapSprites := true } }) =
      some ([(0, 0), (0, 1), (0, 2), (0, 60), (0, 61), (0, 62), (0, 63)], 0x01) := by decide

/-! ## Timers, keys and the random byte -/

theorem test_fx07_reads_dt :
    observe (fun t => t.reg 3) (runWord 0xF307 { State.reset with dt := 0x3C }) = some 0x3C := by decide
theorem test_fx15_sets_dt :
    observe (fun t => (t.dt, (timerTick t).dt)) (runWord 0xF315 (regs [(3, 0x3C)])) =
      some (0x3C, 0x3B) := by decide
theorem test_fx18_sets_st :
    observe (fun t => ((timerTick t).st, (timerTick t).soundOn)) (runWord 0xF318 (regs [(3, 0x01)])) =
      some (0x00, false) := by decide
theorem test_ex9e_low_nibble :
    observe State.pc (runWord 0xE59E { regs [(5, 0x13)] with
      keys := down [3], config := { Configuration.atReset with keyIndex := .lowNibble } }) =
      some 0x0204 := by decide
theorem test_ex9e_faults_by_policy :
    observe (fun t => (t.pc, t.fault)) (runWord 0xE59E (regs [(5, 0x13)])) =
      some (0x0200, some { pc := 0x0200, cause := .keyIndexOutOfRange 0xE59E 0x13 }) := by decide
theorem test_exa1_skips_a_key_up :
    observe State.pc (runWord 0xE5A1 (regs [(5, 0x03)])) = some 0x0204 := by decide
theorem test_exa1_does_not_skip_a_key_down :
    observe State.pc (runWord 0xE5A1 { regs [(5, 0x03)] with keys := down [3] }) = some 0x0202 := by
  decide
theorem test_fx0a_latches_the_smallest :
    observe (fun t => (t.pending, t.pc, t.status)) (runWord 0xF50A { State.reset with keys := down [9, 7] }) =
      some (some 7, 0x0200, some .retry) := by decide
theorem test_fx0a_commits_on_release :
    observe (fun t => (t.reg 5, t.pending, t.pc))
      (runWord 0xF50A { State.reset with keys := down [9], pending := some 7 }) =
      some (0x07, none, 0x0202) := by decide
theorem test_cxnn_masks :
    observe (fun t => t.reg 1) (runWord 0xC10F { State.reset with rnd := 0xAB }) = some 0x0B := by decide
theorem test_cxnn_writes_vf_as_data :
    observe (fun t => t.reg VF) (runWord 0xCF0F { regs [(15, 0x01)] with rnd := 0xF0 }) = some 0x00 := by
  decide

/-! ## Steps: fetch, the tick and the transactions -/

/-- The step uses the listed input, runs the word and, with budget 1, ends the tick. -/
theorem test_step_runs_the_word_and_ticks :
    observe (fun t => (t.reg 1, t.pc, t.dt, t.fci, t.presented.map Presentation.soundOn))
      (step ({ State.reset with dt := 0x02, st := 0x02, inputs := [⟨Keypad.allUp, 0xAB⟩] }.withFetchWord
        16 0xC10F)) = some (0x0B, 0x0202, 0x01, 0, some true) := by decide
/-- With no listed input the random byte is free, and C100 masks it away. -/
theorem test_step_free_random_masked_away :
    observe (fun t => (t.pc, t.draws)) (step (State.reset.withFetchWord 16 0xC100)) =
      some (0x0202, 1) := by decide
theorem test_fetch_from_an_odd_pc :
    observe (fun t => (t.reg 0, t.pc))
      (cycle Keypad.allUp 0x00 0 { withBytes 0x201 [0x60, 0x07] .reset with pc := 0x0201 }) =
      some (0x07, 0x0203) := by decide
theorem test_fetch_of_the_last_word :
    observe State.pc (cycle Keypad.allUp 0x00 0 { withBytes 0xFFE [0x12, 0x00] .reset with pc := 0x0FFE }) =
      some 0x0200 := by decide
theorem test_reset_recovers_from_a_fault :
    let s := resetCore (some [0xAF, 0xFF])
      { State.reset with pc := 0x0202, i := 0x0FFF, fault := some ⟨0x0202, .dataOutOfRange 0xF155 0x1000⟩ }
    (s.fault, s.pc, s.i, s.readByte 0x200, s.readByte 0x201, s.lastLoad) =
      (none, 0x0200, 0x0000, 0xAF, 0xFF, some .ok) := by decide

/-! ## Witnesses: for each statement with hypotheses, a state and operands that meet them together

Each is named after its statement; a clause with a range is met at its boundary. -/

/-- The next state of an outcome; the reset state where there is none. -/
def next (o : Host.Outcome State Fault Refusal) : State := (observe id o).getD .reset

/-- The reset state with another configuration. -/
def configured (f : Configuration → Configuration) : State :=
  { State.reset with config := f Configuration.atReset }

/-- The reset state with I set. -/
def index (i : Word) : State := { State.reset with i := i }

/-- A core that has faulted. -/
def faulted : State :=
  { State.reset with pc := 0x0FFF, fault := some ⟨0x0FFF, .fetchOutOfRange⟩, hostActions := [] }

theorem witness_running : State.reset.running := ⟨rfl, rfl⟩

theorem witness_DecodeOfEncode :
    (Instr.nop8 1 2 0xF).wellFormed = true ∧ (Instr.nop0 0x0EF).wellFormed = true ∧
    (Instr.drw 0xF 0xF 0xF).wellFormed = true := by decide

theorem witness_UndefinedWordsRunAsNoOps :
    (State.reset.withFetchWord 16 0x800F).running ∧
    (State.reset.withFetchWord 16 0x800F).fetches 0x800F ∧
    ∀ r ∈ opcodeRows, (0x800F : Word) &&& r.mask ≠ r.pattern :=
  ⟨⟨rfl, rfl⟩, by unfold State.fetches; decide, by decide⟩

theorem witness_StepRunsTheDecodedInstruction :
    let s := { State.reset with
      pc := 0x0FFE, inputs := [⟨Keypad.allUp, 0xAB⟩] }.withFetchWord 16 0xC10F
    s.running ∧ s.pc.toNat + 1 < 4096 ∧
    decodeBytes [s.readByte s.pc.toNat, s.readByte (s.pc.toNat + 1)] = .ok (.rnd 1 0x0F, []) ∧
    exec (.rnd 1 0x0F)
      { s.consumeInput with pc := s.pc + 2, keys := s.nextKeys, rnd := s.nextRnd } = .next
      (next (exec (.rnd 1 0x0F)
        { s.consumeInput with pc := s.pc + 2, keys := s.nextKeys, rnd := s.nextRnd })) :=
  ⟨⟨rfl, rfl⟩, by decide, rfl, rfl⟩

theorem witness_FetchPastTheEndFaults :
    { State.reset with pc := 0x0FFF }.running ∧
    4096 ≤ ({ State.reset with pc := 0x0FFF } : State).pc.toNat + 1 := ⟨⟨rfl, rfl⟩, by decide⟩

theorem witness_WordPlacedIsFetchedBigEndian :
    Memory.wf State.reset.config.font State.reset.mem = true ∧
    ({ State.reset with pc := 0x0FFE } : State).pc.toNat + 1 < 4096 := by decide

theorem witness_StoredCodeIsFetched :
    let s := { regs [(0, 0x60), (1, 0x05)] with i := 0x0FFE, pc := 0x0FFE }
    Memory.wf s.config.font s.mem = true ∧ s.i.toNat + (1 : Reg).val < 4096 ∧
    (0 : Reg).val + 1 = (1 : Reg).val ∧ (1 : Reg) ≤ 1 ∧ s.pc.toNat = s.i.toNat + (0 : Reg).val ∧
    exec (.storeRegs 1) s = .next (next (exec (.storeRegs 1) s)) :=
  ⟨by decide, by decide, rfl, by decide, by decide, rfl⟩

theorem witness_HaltedCoreDoesNothing :
    ({ State.reset with init := false } : State).init = false ∧ faulted.fault ≠ none := by decide

theorem witness_HaltedCoreStaysHalted :
    faulted.fault ≠ none ∧ faulted.hostActions = [] ∧
    ∃ t, Sys2Proof.core.run 2 faulted = .next t := ⟨by decide, rfl, _, rfl⟩

theorem witness_LogicResultsAndQuirk :
    State.reset.config.resetVfOnLogic = false ∧
    (configured fun c => { c with resetVfOnLogic := true }).config.resetVfOnLogic = true := by decide

theorem witness_AddSubtractResultsAndFlags :
    (255 < (0xFF : Byte).toNat + (0x01 : Byte).toNat ∧ ¬ 255 < (0xFF : Byte).toNat + (0x00 : Byte).toNat) ∧
    ((0x05 : Byte).toNat ≤ (0x05 : Byte).toNat ∧ ¬ (0x06 : Byte).toNat ≤ (0x05 : Byte).toNat) := by decide

theorem witness_ShiftResultsAndFlags :
    ((0x01 : Byte).toNat % 2 = 1 ∧ ¬ (0x02 : Byte).toNat % 2 = 1) ∧
    (128 ≤ (0x80 : Byte).toNat ∧ ¬ 128 ≤ (0x7F : Byte).toNat) := by decide

theorem witness_SkipsOnImmediates_and_SkipsOnRegisters :
    State.reset.reg 1 = 0x00 ∧ State.reset.reg 1 ≠ 0x01 ∧ State.reset.reg 1 = State.reset.reg 2 ∧
    (regs [(1, 0x01)]).reg 1 ≠ (regs [(1, 0x01)]).reg 2 := by decide

theorem witness_CallPushesTheReturnAddress :
    ({ State.reset with sp := 15 } : State).sp.val < 16 ∧
    ({ State.reset with sp := 16 } : State).sp.val = 16 ∧ State.reset.config.stackOverflow = .ignore ∧
    (configured fun c => { c with stackOverflow := .jumpNoPush }).config.stackOverflow = .jumpNoPush ∧
    (configured fun c => { c with stackOverflow := .fault }).config.stackOverflow = .fault := by decide

theorem witness_RetPopsTheReturnAddress :
    ({ State.reset with sp := 1 } : State).sp.val = (0 : Fin 16).val + 1 ∧
    ({ State.reset with sp := 16 } : State).sp.val = (15 : Fin 16).val + 1 ∧ State.reset.sp.val = 0 ∧
    State.reset.config.retEmpty = .ignore ∧
    (configured fun c => { c with retEmpty := .fault }).config.retEmpty = .fault := by decide

theorem witness_ReturnComesBackAfterTheCall :
    let s := { State.reset with sp := 15 }
    s.sp.val < 16 ∧ exec (.call 0x300) s = .next (next (exec (.call 0x300) s)) ∧
    (next (exec (.call 0x300) s)).sp.val = 16 := ⟨by decide, rfl, by decide⟩

theorem witness_AddToIndexAndFlag :
    0x1000 ≤ (index 0x0FFF).i.toNat + ((regs [(1, 0x01)]).reg 1).toNat ∧
    (index 0x0FFE).i.toNat + ((regs [(1, 0x01)]).reg 1).toNat < 0x1000 := by decide

theorem witness_FontGlyphAddress :
    State.reset.config.fontDigit = .lowNibble ∧
    (configured fun c => { c with fontDigit := .fullByte }).config.fontDigit = .fullByte := by decide

theorem witness_BcdStore :
    Memory.wf State.reset.config.font State.reset.mem = true ∧ (index 0x0FFD).i.toNat + 2 < 4096 ∧
    4096 ≤ (index 0x0FFE).i.toNat + 2 := by decide

theorem witness_BlockStore_and_BlockLoad :
    Memory.wf State.reset.config.font State.reset.mem = true ∧
    (index 0x0FF0).i.toNat + (15 : Reg).val < 4096 ∧ 4096 ≤ (index 0x0FF1).i.toNat + (15 : Reg).val := by
  decide

theorem witness_BlockStoreThenLoadRestores :
    Memory.wf (index 0x0FF0).config.font (index 0x0FF0).mem = true ∧
    (index 0x0FF0).i.toNat + (15 : Reg).val < 4096 ∧
    exec (.storeRegs 15) (index 0x0FF0) = .next (next (exec (.storeRegs 15) (index 0x0FF0))) :=
  ⟨by decide, by decide, rfl⟩

/-- The draw: the waiting clause, the last row that fits, the first that does not, no row at all, and the
same sprite clipped and wrapped at row 30. -/
theorem witness_DrawXorsTheSprite :
    let waits := { configured (fun c => { c with waitForVblank := true }) with fci := 1 }
    let wraps := configured fun c => { c with wrapSprites := true }
    (waits.config.waitForVblank = true ∧ 0 < waits.fci) ∧
    (State.reset.config.waitForVblank = false ∨ State.reset.fci = 0) ∧
    (index 0x0FFB).i.toNat + min (0x5 : BitVec 4).toNat (32 - (State.reset.reg 1).toNat % 32) ≤ 4096 ∧
    4096 < (index 0x0FFC).i.toNat + min (0x5 : BitVec 4).toNat (32 - (State.reset.reg 1).toNat % 32) ∧
    min (0x0 : BitVec 4).toNat (32 - (State.reset.reg 1).toNat % 32) = 0 ∧
    (min (0x5 : BitVec 4).toNat (32 - ((regs [(1, 30)]).reg 1).toNat % 32) = 2 ∧
      wraps.config.wrapSprites = true) := by decide

theorem witness_spriteCovers :
    (index 0x0050).spriteCovers 0 1 0x5 0 0 ∧ ¬ (index 0x0050).spriteCovers 0 1 0x0 0 0 :=
  ⟨⟨0, 0, by decide, by decide, by decide, by unfold landsOn; decide⟩,
    fun ⟨k, _, hk, _⟩ => absurd hk (Nat.not_lt_zero k)⟩

theorem witness_DrawTwiceRestoresTheFramebuffer :
    (0 : Reg) ≠ VF ∧ (1 : Reg) ≠ VF ∧
    exec (.drw 0 1 0x5) (index 0x0050) = .next (next (exec (.drw 0 1 0x5) (index 0x0050))) ∧
    (next (exec (.drw 0 1 0x5) (index 0x0050))).status = some .completed :=
  ⟨by decide, by decide, rfl, rfl⟩

theorem witness_WaitingDrawOnlyCountsTheCycle :
    let s := { configured (fun c => { c with waitForVblank := true, ips := 180 }) with
      fci := 1 }.withFetchWord 16 0xD015
    s.running ∧ s.fetches 0xD015 ∧ decode 0xD015 = .drw 0 1 0x5 ∧ s.config.waitForVblank = true ∧
    0 < s.fci ∧ s.fci + 1 < s.config.budget :=
  ⟨⟨rfl, rfl⟩, by unfold State.fetches; decide, by decide, rfl, by decide, by decide⟩

theorem witness_TimerInstructions :
    (regs [(3, 0x01)]).running ∧ ¬ 1 < ((regs [(3, 0x01)]).reg 3).toNat ∧
    1 < ((regs [(3, 0x02)]).reg 3).toNat := ⟨⟨rfl, rfl⟩, by decide, by decide⟩

theorem witness_KeyTestsFollowTheSnapshot :
    (15 : Key).val = ((regs [(1, 0x0F)]).reg 1).toNat ∧
    ((configured fun c => { c with keyIndex := .lowNibble }).config.keyIndex = .lowNibble ∧
      (3 : Key).val = ((regs [(1, 0x13)]).reg 1).toNat % 16) ∧
    (15 < ((regs [(1, 0x10)]).reg 1).toNat ∧ State.reset.config.keyIndex = .fault) := by decide

theorem witness_KeyWaitLatchesThenCommits :
    let waiting := { State.reset with pending := some (7 : Key), keys := down [7] }
    let released := { State.reset with pending := some (7 : Key), keys := down [9] }
    State.reset.pending = none ∧ (waiting.pending = some 7 ∧ waiting.keys[(7 : Key)] = true) ∧
    (released.pending = some 7 ∧ released.keys[(7 : Key)] = false) := by decide

theorem witness_KeyWaitBlocksWithNoKeyDown :
    let s := { State.reset with inputs := [⟨Keypad.allUp, 0xAB⟩] }.withFetchWord 16 0xF30A
    s.running ∧ s.fetches 0xF30A ∧ decode 0xF30A = .ldVxK 3 ∧ s.pending = none ∧ s.hostActions = [] ∧
    (∀ j : Key, s.keys[j] = false) ∧ (∀ c ∈ s.inputs, ∀ j : Key, c.keys[j] = false) ∧
    ∃ t, Sys2Proof.core.run 1 s = .next t :=
  ⟨⟨rfl, rfl⟩, by unfold State.fetches; decide, by decide, rfl, rfl, by decide, by decide, _, rfl⟩

theorem witness_TimerTickCountsDown :
    (State.reset.init = true ∧ State.reset.fault = none) ∧
    (({ State.reset with init := false } : State).init = false ∨ faulted.fault ≠ none) := by decide

theorem witness_SchedulerEndsTheTick :
    let s := configured fun c => { c with ips := 180 }
    let last := { s with fci := 2, status := some Status.completed }
    let first := { s with fci := 1, status := some Status.retry }
    (first.hostActions = [] ∧ first.status ≠ some .faulted ∧ first.status ≠ some .halted ∧
      first.fci + 1 < first.config.budget) ∧
    (last.hostActions = [] ∧ last.config.budget ≤ last.fci + 1) ∧
    ({ s with status := some Status.faulted } : State).status = some .faulted := by decide

theorem witness_HostLoadsOnlyBetweenTicks :
    let s := { configured (fun c => { c with ips := 120 }) with
      status := some Status.completed, hostActions := [[.load (some [0x12, 0x00]) Configuration.atReset]] }
    s.hostActions = [.load (some [0x12, 0x00]) Configuration.atReset] :: [] ∧
    ([0x12, 0x00] : List Byte).length ≤ 3584 ∧ 60 ≤ Configuration.atReset.ips ∧ s.tickEnds = false ∧
    ({ s with fci := 1 } : State).tickEnds = true := by decide

theorem witness_LoadInitialisesTheCore :
    (List.replicate 3584 (0x12 : Byte)).length ≤ 3584 ∧ 60 ≤ Configuration.atReset.ips :=
  ⟨by rw [List.length_replicate], by decide⟩

theorem witness_FailedLoadChangesNothing :
    3584 < (List.replicate 3585 (0x12 : Byte)).length ∧ ([] : List Byte).length ≤ 3584 ∧
    { Configuration.atReset with ips := 59 }.ips < 60 ∧
    ({ State.reset with init := false } : State).init = false ∧ State.reset.init = true :=
  ⟨by rw [List.length_replicate]; decide, by decide, by decide, rfl, rfl⟩

theorem witness_ResetIsLoadWithTheKeptConfiguration :
    State.reset.init = true ∧ 60 ≤ State.reset.config.ips := by decide

theorem witness_ResetStateIsAnEmptyLoad :
    ∃ t, load (some []) Configuration.atReset faulted = t ∧ t.fault = none := ⟨_, rfl, rfl⟩

theorem witness_OnlyTheNamedInstructionsWrite :
    exec (.drw 0 1 0x5) (index 0x0050) = .next (next (exec (.drw 0 1 0x5) (index 0x0050))) ∧
    (next (exec (.drw 0 1 0x5) (index 0x0050))).fb ≠ (index 0x0050).fb :=
  ⟨rfl, fun h => absurd (congrArg (fun fb : Framebuffer => fb.pixel 0 0) h) (by decide)⟩

theorem witness_VfChangesOnlyAsFlagOrDestination :
    let s := regs [(1, 0xFF)]
    exec (.addReg 1 1) s = .next (next (exec (.addReg 1 1) s)) ∧
    (next (exec (.addReg 1 1) s)).reg VF ≠ s.reg VF := ⟨rfl, by decide⟩

theorem witness_PcIsAtMost10FEOrPopped :
    let low := { State.reset with pc := 2 }
    let high := { State.reset with pc := 4096 }
    (2 ≤ low.pc.toNat ∧ low.pc.toNat ≤ 4096) ∧ (2 ≤ high.pc.toNat ∧ high.pc.toNat ≤ 4096) ∧
    exec (.seImm 0 0x00) high = .next (next (exec (.seImm 0 0x00) high)) :=
  ⟨by decide, by decide, rfl⟩

/-- A state that waits for key 7 to be released, inside a call, meets the invariant, and steps. -/
theorem witness_StepKeepsTheInvariant :
    let s := { State.reset with
      pc := 0x0300, sp := 1, stack := State.reset.stack.set 0 0x1000, pending := some 7,
      inputs := [⟨down [7], 0x00⟩] }.withFetchWord 16 0xF50A
    Inv s ∧ ∃ s', step s = .next s' :=
  ⟨{ memCanonical := by decide
     pcBound := by decide
     stackBound := fun k hk => by
       obtain rfl : k = 0 := Fin.ext (Nat.lt_one_iff.1 hk)
       decide
     ipsBound := by decide
     fciBound := by decide
     faultAtPc := fun _ h => nomatch h
     latchWaits := fun _ => ⟨0xF50A, 5, by unfold State.fetches; decide, by decide⟩ }, _, rfl⟩

end Sys2Proof.Tests
end

/-!
The control flow statements (spec/40_control_flow.md): what a jump and the skips on an immediate do,
assembled from the word of each instruction and from one lemma about the skip they share.
-/
namespace Sys2Proof.Machine

/-! ## The words of the instructions (R71, R73) -/

theorem hasWord_jp (nnn : BitVec 12) : HasWord (.jp nnn) (0x1000 + nnn.toNat) :=
  ⟨toNat_wordFNNN 0x1 nnn, by simp [encode, decode]⟩

theorem hasWord_seImm (x : Reg) (nn : Byte) :
    HasWord (.seImm x nn) (0x3000 + 256 * x.val + nn.toNat) :=
  ⟨by simp [encode, toNat_wordFXNN, Nat.mul_comm], by simp [encode, decode]⟩

theorem hasWord_sneImm (x : Reg) (nn : Byte) :
    HasWord (.sneImm x nn) (0x4000 + 256 * x.val + nn.toNat) :=
  ⟨by simp [encode, toNat_wordFXNN, Nat.mul_comm], by simp [encode, decode]⟩

/-! ## Jumps and skips -/

@[simp] theorem toNat_extendNNN (nnn : BitVec 12) : (extendNNN nnn).toNat = nnn.toNat :=
  BitVec.toNat_setWidth_of_le (by decide)

/-- R110: the skip writes PC only. -/
theorem State.skipIf_eq (s : State) (b : Bool) : s.skipIf b = { s with pc := (s.skipIf b).pc } := by
  cases b <;> rfl

/-- Every conditional skip: an instruction that completes after `skipIf b`, where `b` decides `c`. -/
theorem completesSkipping_of_skipIf {instr : Instr} {s : State} {b : Bool} {c : Prop}
    (hexec : exec instr s = complete (s.skipIf b)) (hb : b = true ↔ c) :
    CompletesSkipping instr s c := by
  refine ⟨{ s.skipIf b with status := some .completed }, hexec, fun hc => ?_, fun hc => ?_,
    fun a => ?_, ?_⟩
  · simp [hb.2 hc]
  · simp [mt hb.1 hc]
  · simp [State.readByte]
  · rw [State.skipIf_eq]

/-- Settles O18: each instruction is a completed skip on its own comparison. -/
theorem skipsOnImmediates : Obligations.SkipsOnImmediates := by
  intro s x nn
  have hse : CompletesSkipping (.seImm x nn) s (s.reg x = nn) :=
    completesSkipping_of_skipIf rfl beq_iff_eq
  have hsne : CompletesSkipping (.sneImm x nn) s (s.reg x ≠ nn) :=
    completesSkipping_of_skipIf rfl bne_iff_ne
  exact ⟨⟨hasWord_seImm x nn, hse⟩, hasWord_sneImm x nn, hsne⟩

/-- Settles O20: the meaning writes NNN, zero-extended (R72), to PC and completes. -/
theorem jumpSetsPc : Obligations.JumpSetsPc := fun s nnn =>
  ⟨hasWord_jp nnn, { s with pc := extendNNN nnn, status := some .completed }, rfl,
    toNat_extendNNN nnn, fun _ => rfl, rfl⟩

end Sys2Proof.Machine

/-!
The arithmetic and logic statements (spec/41_arith_logic.md): what a completed register write and a
completed data-then-flag write do, said once each, and for each instruction its word, the value it
writes and the flag it computes.
-/
namespace Sys2Proof.Machine

/-! ## The words of family 8 (R71, R73) -/

/-- An instruction of family 8 with low nibble `n`; by default its word is decoded by the rows of
`decodeFamily8`. -/
theorem hasWord_family8 (instr : Instr) {x y : Reg} {n : BitVec 4}
    (hencode : encode instr = wordFXYN 0x8 x y n)
    (hdecode : decode (encode instr) = instr := by simp [encode, decode, decodeFamily8]) :
    HasWord instr (0x8000 + n.toNat + 256 * x.val + 16 * y.val) := by
  have hfamily : (0x8 : BitVec 4).toNat = 8 := rfl
  refine ⟨?_, hdecode⟩
  rw [hencode, toNat_wordFXYN, hfamily]
  omega

theorem hasWord_ldImm (x : Reg) (nn : Byte) :
    HasWord (.ldImm x nn) (0x6000 + 256 * x.val + nn.toNat) :=
  ⟨by simp [encode, toNat_wordFXNN, Nat.mul_comm], by simp [encode, decode]⟩

/-! ## The three ways an instruction of this family completes (R23, R123) -/

theorem completesWriting_of_setReg {instr : Instr} {s : State} {x : Reg} {b : Byte}
    (hexec : exec instr s = complete (s.setReg x b)) : CompletesWriting instr s x b :=
  ⟨{ s.setReg x b with status := some .completed }, hexec, State.reg_setReg_same s x b,
    fun _ hr => State.reg_setReg_ne s b hr, State.readByte_setReg s x b, rfl⟩

/-- The flag is read back after the data it may replace; `c` is what the flag computes. -/
theorem completesWithFlag_of_dataThenFlag {instr : Instr} {s : State} {x : Reg} {b : Byte}
    {f : Bool} {c : Prop} (hexec : exec instr s = complete (s.dataThenFlag x b f))
    (hf : f = true ↔ c) :
    CompletesWithFlag instr s x b c := by
  have hreg (r : Reg) := State.reg_dataThenFlag s x r b f
  refine ⟨{ s.dataThenFlag x b f with status := some .completed }, hexec, fun hx => ?_,
    fun hc => ?_, fun hc => ?_, fun r hrx hrf => ?_, fun _ => rfl, rfl⟩
  · exact (hreg x).trans (by rw [if_neg hx, if_pos rfl])
  · exact (hreg VF).trans (by rw [if_pos rfl, hf.2 hc]; rfl)
  · exact (hreg VF).trans (by rw [if_pos rfl, Bool.eq_false_iff.2 (mt hf.1 hc)]; rfl)
  · exact (hreg r).trans (by rw [if_neg hrf, if_neg hrx])

theorem State.logicQuirk_of_off {s : State} (hq : s.config.resetVfOnLogic = false) :
    s.logicQuirk = s := by simp [State.logicQuirk, hq]

theorem State.logicQuirk_of_on {s : State} (hq : s.config.resetVfOnLogic = true) :
    s.logicQuirk = s.setFlag false := by simp [State.logicQuirk, hq]

section
variable {instr : Instr} {s : State} {x : Reg} {b : Byte}

/-- A logic instruction with the quirk off writes its result only. -/
theorem completesWriting_of_logicQuirk (hq : s.config.resetVfOnLogic = false)
    (hexec : exec instr s = complete (s.setReg x b).logicQuirk) : CompletesWriting instr s x b :=
  completesWriting_of_setReg (by rw [hexec, State.logicQuirk_of_off (s := s.setReg x b) hq])

/-- A logic instruction with the quirk on writes its result, then a flag that is never set. -/
theorem completesWithFlag_of_logicQuirk (hq : s.config.resetVfOnLogic = true)
    (hexec : exec instr s = complete (s.setReg x b).logicQuirk) :
    CompletesWithFlag instr s x b False :=
  completesWithFlag_of_dataThenFlag (f := false)
    (by rw [hexec, State.logicQuirk_of_on (s := s.setReg x b) hq, State.dataThenFlag])
    Bool.false_eq_true.to_iff

end

/-! ## What the flags and the shifted values are as numbers (R24, R132) -/

theorem carry_iff {a b : Byte} : carry a b = true ↔ 255 < a.toNat + b.toNat := decide_eq_true_iff

theorem noBorrow_iff {a b : Byte} : noBorrow a b = true ↔ b.toNat ≤ a.toNat := decide_eq_true_iff

theorem bitOutRight_iff {b : Byte} : bitOutRight b = true ↔ b.toNat % 2 = 1 := by
  simp [bitOutRight, BitVec.getLsbD, Nat.testBit_zero]

theorem bitOutLeft_iff {b : Byte} : bitOutLeft b = true ↔ 128 ≤ b.toNat := by
  rw [bitOutLeft, BitVec.getLsbD, Nat.testBit_eq_decide_div_mod_eq, decide_eq_true_iff]
  have := b.isLt
  omega

/-- A difference modulo 256, with no subtraction that can go below 0. -/
theorem sub_eq_ofNat (a b : Byte) : a - b = BitVec.ofNat 8 (a.toNat + 256 - b.toNat) := by
  bv_omega

theorem ushiftRight_one_eq_ofNat (b : Byte) : b >>> 1 = BitVec.ofNat 8 (b.toNat / 2) := by
  bv_omega

theorem shiftLeft_one_eq_ofNat (b : Byte) : b <<< 1 = BitVec.ofNat 8 (b.toNat * 2) := by
  bv_omega

/-! ## The statements -/

/-- Settles O14: each instruction ends with the quirk of R123 on its own result. -/
theorem logicResultsAndQuirk : Obligations.LogicResultsAndQuirk := by
  intro s x y
  refine ⟨hasWord_family8 (.orReg x y) rfl, hasWord_family8 (.andReg x y) rfl,
    hasWord_family8 (.xorReg x y) rfl, fun hoff => ?_, fun hon => ?_⟩
  · exact ⟨completesWriting_of_logicQuirk hoff rfl, completesWriting_of_logicQuirk hoff rfl,
      completesWriting_of_logicQuirk hoff rfl⟩
  · exact ⟨completesWithFlag_of_logicQuirk hon rfl, completesWithFlag_of_logicQuirk hon rfl,
      completesWithFlag_of_logicQuirk hon rfl⟩

/-- Settles O15: each instruction writes data, then a flag; its data and its flag as numbers
are the lemmas above. -/
theorem addSubtractResultsAndFlags : Obligations.AddSubtractResultsAndFlags := by
  intro s x y
  refine ⟨⟨hasWord_family8 (.addReg x y) rfl, ?_⟩, ⟨hasWord_family8 (.subReg x y) rfl, ?_⟩,
    hasWord_family8 (.subnReg x y) rfl, ?_⟩
  · rw [← BitVec.add_def]
    exact completesWithFlag_of_dataThenFlag rfl carry_iff
  · rw [← sub_eq_ofNat]
    exact completesWithFlag_of_dataThenFlag rfl noBorrow_iff
  · rw [← sub_eq_ofNat]
    exact completesWithFlag_of_dataThenFlag rfl noBorrow_iff

/-- Settles O16: the data and the flag of each shift are computed from Vy alone. -/
theorem shiftResultsAndFlags : Obligations.ShiftResultsAndFlags := by
  intro s x y
  refine ⟨⟨hasWord_family8 (.shrReg x y) rfl, ?_⟩, hasWord_family8 (.shlReg x y) rfl, ?_⟩
  · rw [← ushiftRight_one_eq_ofNat]
    exact completesWithFlag_of_dataThenFlag rfl bitOutRight_iff
  · rw [← shiftLeft_one_eq_ofNat]
    exact completesWithFlag_of_dataThenFlag rfl bitOutLeft_iff

/-- Settles O12: both meanings are one completed register write. -/
theorem loadAndCopyResults : Obligations.LoadAndCopyResults := fun _ x y nn =>
  ⟨⟨hasWord_ldImm x nn, completesWriting_of_setReg rfl⟩,
    hasWord_family8 (.ldReg x y) rfl, completesWriting_of_setReg rfl⟩

end Sys2Proof.Machine

/-!
The index and memory statements (spec/42_index_memory.md): what setting I writes, assembled from the
word of the instruction and from the value the meaning writes.
-/
namespace Sys2Proof.Machine

/-- The word of ANNN (R71, R73). -/
theorem hasWord_ldI (nnn : BitVec 12) : HasWord (.ldI nnn) (0xA000 + nnn.toNat) :=
  ⟨toNat_wordFNNN 0xA nnn, by simp [encode, decode]⟩

/-- R140: ANNN writes NNN, zero-extended (R72), to I and completes. -/
theorem exec_ldI (s : State) (nnn : BitVec 12) :
    exec (.ldI nnn) s = .next { s with i := extendNNN nnn, status := some .completed } := rfl

/-- Settles O25: the one update of `exec_ldI` leaves memory and every field but I and the status. -/
theorem setIndexWritesI : Obligations.SetIndexWritesI := fun s nnn =>
  ⟨hasWord_ldI nnn, { s with i := extendNNN nnn, status := some .completed }, exec_ldI s nnn,
    toNat_extendNNN nnn, fun _ => rfl, rfl⟩

end Sys2Proof.Machine

/-!
The display statements (spec/43_display.md): what CLS writes, assembled from the word of the
instruction and from the pixels of the cleared framebuffer.
-/
namespace Sys2Proof.Machine

/-- The word of 00E0 (R71, R73). -/
theorem hasWord_cls : HasWord .cls 0x00E0 := ⟨by decide, by decide⟩

/-- R160: 00E0 clears the framebuffer and completes; neither the configuration nor the frame-cycle
index is read. -/
theorem exec_cls (s : State) :
    exec .cls s = .next { s with fb := Framebuffer.clear, status := some .completed } := rfl

/-- Settles O32: the one update of `exec_cls` leaves memory and every field but the framebuffer and
the status. -/
theorem clearTurnsEveryPixelOff : Obligations.ClearTurnsEveryPixelOff := fun s =>
  ⟨hasWord_cls, { s with fb := Framebuffer.clear, status := some .completed }, exec_cls s,
    Framebuffer.pixel_clear, fun _ => rfl, rfl⟩

end Sys2Proof.Machine

/-!
The timer statements (spec/44_timers_input.md): the words of the timer instructions, and what a timer
tick of a running core leaves in the two timers.
-/
namespace Sys2Proof.Machine

/-! ## The words of family F (R71, R73) -/

/-- An instruction of family F with low byte `nn`; by default its word is decoded by the rows of
`decodeFamilyF`. -/
theorem hasWord_familyF (instr : Instr) {x : Reg} {nn : Byte}
    (hencode : encode instr = wordFXNN 0xF x nn)
    (hdecode : decode (encode instr) = instr := by simp [encode, decode, decodeFamilyF]) :
    HasWord instr (0xF000 + nn.toNat + 256 * x.val) := by
  have hfamily : (0xF : BitVec 4).toNat = 15 := rfl
  refine ⟨?_, hdecode⟩
  rw [hencode, toNat_wordFXNN, hfamily]
  omega

/-! ## The timer tick (R41, R223) -/

/-- Natural subtraction is the floor at zero. -/
@[simp] theorem toNat_countDown (t : Byte) : (countDown t).toNat = t.toNat - 1 := by
  unfold countDown
  split
  · next hzero => rw [hzero]; rfl
  · next hne => bv_omega

theorem timerTick_of_running {s : State} (h : s.running) :
    timerTick s = { s with dt := countDown s.dt, st := countDown s.st } := by
  rw [timerTick, State.halted_eq_false.2 h, if_neg Bool.false_ne_true]

theorem toNat_timerTick_dt {s : State} (h : s.running) :
    (timerTick s).dt.toNat = s.dt.toNat - 1 := by
  rw [timerTick_of_running h, toNat_countDown]

theorem toNat_timerTick_st {s : State} (h : s.running) :
    (timerTick s).st.toNat = s.st.toNat - 1 := by
  rw [timerTick_of_running h, toNat_countDown]

theorem State.soundOn_iff {s : State} : s.soundOn = true ↔ 0 < s.st.toNat := by
  rw [State.soundOn, decide_eq_true_iff]
  bv_omega

/-- After its last decrement the sound timer is silent: the sound stays on only from 2 upwards. -/
theorem soundOn_timerTick_iff {s : State} (h : s.running) :
    (timerTick s).soundOn = true ↔ 1 < s.st.toNat := by
  rw [State.soundOn_iff, toNat_timerTick_st h, Nat.sub_pos_iff_lt]

/-! ## The statement -/

/-- R181: FX15 writes Vx to DT and completes. -/
theorem exec_ldDtVx (s : State) (x : Reg) :
    exec (.ldDtVx x) s = .next { s with dt := s.reg x, status := some .completed } := rfl

/-- R182: FX18 writes Vx to ST and completes. -/
theorem exec_ldStVx (s : State) (x : Reg) :
    exec (.ldStVx x) s = .next { s with st := s.reg x, status := some .completed } := rfl

/-- Settles O36: FX07 is a completed register write; FX15 and FX18 are one update each, which leaves a
running core running, so the tick that follows decrements the value written. -/
theorem timerInstructions : Obligations.TimerInstructions := by
  intro s x
  refine ⟨⟨hasWord_familyF (.ldVxDt x) rfl, completesWriting_of_setReg rfl⟩,
    ⟨hasWord_familyF (.ldDtVx x) rfl, _, exec_ldDtVx s x, rfl, fun hrun => ?_, fun _ => rfl, rfl⟩,
    hasWord_familyF (.ldStVx x) rfl, _, exec_ldStVx s x, rfl, fun hrun => ?_, fun _ => rfl, rfl⟩
  · exact toNat_timerTick_dt hrun
  · exact ⟨toNat_timerTick_st hrun, soundOn_timerTick_iff hrun⟩

end Sys2Proof.Machine

/-!
The encoding statements (spec/30_encoding.md sections 2 and 3): what the decoder answers on a word
of each family that has a sub-opcode, the two round trips, and the masks of the opcode map as equations
between fields.
-/
namespace Sys2Proof

/-! ## Decoding the word of a family with a sub-opcode (R73, R75) -/

section
variable (x y : Reg) (n : BitVec 4) (nn : Byte) (nnn : BitVec 12)

theorem decode_wordFNNN_family0 :
    decode (wordFNNN 0x0 nnn) = if nnn = 0x0E0#12 then .cls else if nnn = 0x0EE#12 then .ret
      else .nop0 nnn := by
  simp [decode, decodeFamily0]

theorem decode_wordFXYN_family5 :
    decode (wordFXYN 0x5 x y n) = if n = 0x0#4 then .seReg x y else .nop5 x y n := by
  simp [decode, decodeFamily5]

theorem decode_wordFXYN_family9 :
    decode (wordFXYN 0x9 x y n) = if n = 0x0#4 then .sneReg x y else .nop9 x y n := by
  simp [decode, decodeFamily9]

theorem decode_wordFXNN_familyE :
    decode (wordFXNN 0xE x nn) = if nn = 0x9E#8 then .skp x else if nn = 0xA1#8 then .sknp x
      else .nopE x nn := by
  simp [decode, decodeFamilyE]

theorem decode_wordFXYN_family8_undefined
    (h : n ∈ [0x8#4, 0x9#4, 0xA#4, 0xB#4, 0xC#4, 0xD#4, 0xF#4]) :
    decode (wordFXYN 0x8 x y n) = .nop8 x y n := by
  have hrows : n ≠ 0x0#4 ∧ n ≠ 0x1#4 ∧ n ≠ 0x2#4 ∧ n ≠ 0x3#4 ∧ n ≠ 0x4#4 ∧ n ≠ 0x5#4 ∧ n ≠ 0x6#4 ∧
      n ≠ 0x7#4 ∧ n ≠ 0xE#4 := by
    revert h; revert n; decide
  simp [decode, decodeFamily8, hrows]

theorem decode_wordFXNN_familyF_undefined
    (h : nn ∉ [0x07#8, 0x0A#8, 0x15#8, 0x18#8, 0x1E#8, 0x29#8, 0x33#8, 0x55#8, 0x65#8]) :
    decode (wordFXNN 0xF x nn) = .nopF x nn := by
  simp only [List.mem_cons, List.not_mem_nil, or_false, not_or] at h
  simp [decode, decodeFamilyF, h]

end

/-- R71, R73: the fields of a well-formed instruction's word lead the decoder back to its row; an
undefined word is told from the defined rows of its family by its well-formedness (R75). -/
theorem decode_encode (i : Instr) (h : i.wellFormed = true) : decode (encode i) = i := by
  cases i with
  | cls | ret => exact decode_wordFNNN_family0 _
  | jp _ | call _ | ldI _ | jpV0 _ => simp [encode, decode]
  | seImm _ _ | sneImm _ _ | ldImm _ _ | addImm _ _ | rnd _ _ | drw _ _ _ => simp [encode, decode]
  | seReg x y => exact decode_wordFXYN_family5 x y 0x0
  | sneReg x y => exact decode_wordFXYN_family9 x y 0x0
  | ldReg _ _ | orReg _ _ | andReg _ _ | xorReg _ _ | addReg _ _ | subReg _ _ | shrReg _ _
  | subnReg _ _ | shlReg _ _ => simp [encode, decode, decodeFamily8]
  | skp x | sknp x => exact decode_wordFXNN_familyE x _
  | ldVxDt _ | ldVxK _ | ldDtVx _ | ldStVx _ | addI _ | ldF _ | ldB _ | storeRegs _ | loadRegs _ =>
    simp [encode, decode, decodeFamilyF]
  | nop0 nnn =>
    simp only [Instr.wellFormed, decide_eq_true_eq, List.mem_cons, List.not_mem_nil, or_false,
      not_or] at h
    rw [encode, decode_wordFNNN_family0, if_neg h.1, if_neg h.2]
  | nop5 x y n => rw [encode, decode_wordFXYN_family5, if_neg (of_decide_eq_true h)]
  | nop8 x y n => exact decode_wordFXYN_family8_undefined x y n (of_decide_eq_true h)
  | nop9 x y n => rw [encode, decode_wordFXYN_family9, if_neg (of_decide_eq_true h)]
  | nopE x nn =>
    simp only [Instr.wellFormed, decide_eq_true_eq, List.mem_cons, List.not_mem_nil, or_false,
      not_or] at h
    rw [encode, decode_wordFXNN_familyE, if_neg h.1, if_neg h.2]
  | nopF x nn => exact decode_wordFXNN_familyF_undefined x nn (of_decide_eq_true h)

/-! ## Encoding what was decoded (R76) -/

/-- What the second round trip says of one word and its meaning. -/
def Instr.IsMeaningOf (i : Instr) (w : Word) : Prop := i.wellFormed = true ∧ encode i = w

section
variable {w : Word}

theorem wordFNNN_of_family {f : BitVec 4} (hf : family w = f) : wordFNNN f (fieldNNN w) = w := by
  rw [← hf, wordFNNN_fields]

theorem wordFXNN_of_family {f : BitVec 4} (hf : family w = f) :
    wordFXNN f (fieldX w) (fieldNN w) = w := by
  rw [← hf, wordFXNN_fields]

theorem wordFXYN_of_family {f : BitVec 4} (hf : family w = f) :
    wordFXYN f (fieldX w) (fieldY w) (fieldN w) = w := by
  rw [← hf, wordFXYN_fields]

theorem decodeFamily0_isMeaningOf (hf : family w = 0x0) : (decodeFamily0 w).IsMeaningOf w := by
  have hw := wordFNNN_of_family hf
  unfold decodeFamily0
  split_ifs with hcls hret
  · rw [hcls] at hw; exact ⟨rfl, hw⟩
  · rw [hret] at hw; exact ⟨rfl, hw⟩
  · exact ⟨by simp [Instr.wellFormed, hcls, hret], hw⟩

theorem decodeFamily5_isMeaningOf (hf : family w = 0x5) : (decodeFamily5 w).IsMeaningOf w := by
  have hw := wordFXYN_of_family hf
  unfold decodeFamily5
  split_ifs with hn
  · rw [hn] at hw; exact ⟨rfl, hw⟩
  · exact ⟨decide_eq_true hn, hw⟩

theorem decodeFamily9_isMeaningOf (hf : family w = 0x9) : (decodeFamily9 w).IsMeaningOf w := by
  have hw := wordFXYN_of_family hf
  unfold decodeFamily9
  split_ifs with hn
  · rw [hn] at hw; exact ⟨rfl, hw⟩
  · exact ⟨decide_eq_true hn, hw⟩

theorem decodeFamilyE_isMeaningOf (hf : family w = 0xE) : (decodeFamilyE w).IsMeaningOf w := by
  have hw := wordFXNN_of_family hf
  unfold decodeFamilyE
  split_ifs with hskp hsknp
  · rw [hskp] at hw; exact ⟨rfl, hw⟩
  · rw [hsknp] at hw; exact ⟨rfl, hw⟩
  · exact ⟨by simp [Instr.wellFormed, hskp, hsknp], hw⟩

/-- The nine defined rows take their low nibble from the word; what is left is undefined. -/
theorem decodeFamily8_isMeaningOf (hf : family w = 0x8) : (decodeFamily8 w).IsMeaningOf w := by
  have hw := wordFXYN_of_family hf
  unfold decodeFamily8
  generalize fieldN w = n at hw
  split_ifs with h0 h1 h2 h3 h4 h5 h6 h7 hE
  case neg =>
    have hundefined : n ∈ [0x8#4, 0x9#4, 0xA#4, 0xB#4, 0xC#4, 0xD#4, 0xF#4] := by
      clear hw; revert n; decide
    exact ⟨decide_eq_true hundefined, hw⟩
  all_goals
    subst n
    exact ⟨rfl, hw⟩

theorem decodeFamilyF_isMeaningOf (hf : family w = 0xF) : (decodeFamilyF w).IsMeaningOf w := by
  have hw := wordFXNN_of_family hf
  unfold decodeFamilyF
  generalize fieldNN w = nn at hw
  split_ifs with h07 h0A h15 h18 h1E h29 h33 h55 h65
  case neg => exact ⟨by simp [Instr.wellFormed, *], hw⟩
  all_goals
    subst nn
    exact ⟨rfl, hw⟩

end

/-- A family nibble as the number `decode` matches on. -/
theorem family_eq_ofNat {w : Word} {k : Nat} (h : (family w).toNat = k) :
    family w = BitVec.ofNat 4 k := by
  rw [← h, BitVec.ofNat_toNat, BitVec.setWidth_eq]

/-- R76: by the family nibble, each row's fields put back into its word. -/
theorem decode_isMeaningOf (w : Word) : (decode w).IsMeaningOf w := by
  obtain ⟨k, hk⟩ : ∃ k, (family w).toNat = k := ⟨_, rfl⟩
  have hlt : k < 16 := hk ▸ (family w).isLt
  have hf : family w = BitVec.ofNat 4 k := family_eq_ofNat hk
  unfold decode
  rw [hk]
  match k, hlt, hf with
  | 0x0, _, hf => exact decodeFamily0_isMeaningOf hf
  | 0x5, _, hf => exact decodeFamily5_isMeaningOf hf
  | 0x8, _, hf => exact decodeFamily8_isMeaningOf hf
  | 0x9, _, hf => exact decodeFamily9_isMeaningOf hf
  | 0xE, _, hf => exact decodeFamilyE_isMeaningOf hf
  | 0xF, _, hf => exact decodeFamilyF_isMeaningOf hf
  | 0x1, _, hf | 0x2, _, hf | 0xA, _, hf | 0xB, _, hf => exact ⟨rfl, wordFNNN_of_family hf⟩
  | 0xD, _, hf => exact ⟨rfl, wordFXYN_of_family hf⟩
  | 0x3, _, hf | 0x4, _, hf | 0x6, _, hf | 0x7, _, hf | 0xC, _, hf =>
    exact ⟨rfl, wordFXNN_of_family hf⟩
  | k + 16, hlt, _ => omega

/-! ## The masks of the opcode map (R73, R74)

A row's mask keeps the family nibble and the row's sub-opcode; each pattern is the word of these two
with every other field zero. -/

section
variable (w m : Word) (f n : BitVec 4) (nn : Byte)

@[simp] theorem family_and : family (w &&& m) = family w &&& family m := BitVec.extractLsb'_and

@[simp] theorem fieldN_and : fieldN (w &&& m) = fieldN w &&& fieldN m := BitVec.extractLsb'_and

@[simp] theorem fieldNN_and : fieldNN (w &&& m) = fieldNN w &&& fieldNN m := BitVec.extractLsb'_and

@[simp] theorem fieldNNN_and : fieldNNN (w &&& m) = fieldNNN w &&& fieldNNN m :=
  BitVec.extractLsb'_and

theorem fieldX_and_eq_zero (h : m.extractLsb' 8 4 = 0#4) : fieldX (w &&& m) = 0 := by
  rw [fieldX, BitVec.extractLsb'_and, h, BitVec.and_zero]; rfl

theorem fieldY_and_eq_zero (h : m.extractLsb' 4 4 = 0#4) : fieldY (w &&& m) = 0 := by
  rw [fieldY, BitVec.extractLsb'_and, h, BitVec.and_zero]; rfl

theorem and_0xF000_eq_iff : w &&& 0xF000 = wordFNNN f 0 ↔ family w = f := by
  have hkept : w &&& 0xF000 = wordFNNN (family w) 0 := by
    rw [← wordFNNN_fields (w &&& 0xF000), family_and, fieldNNN_and]
    exact congrArg₂ _ (BitVec.and_allOnes) (BitVec.and_zero)
  rw [hkept]
  exact ⟨fun h => by simpa using congrArg family h, fun h => by rw [h]⟩

theorem and_0xF00F_eq_iff : w &&& 0xF00F = wordFXYN f 0 0 n ↔ family w = f ∧ fieldN w = n := by
  have hkept : w &&& 0xF00F = wordFXYN (family w) 0 0 (fieldN w) := by
    rw [← wordFXYN_fields (w &&& 0xF00F), fieldX_and_eq_zero w _ rfl, fieldY_and_eq_zero w _ rfl,
      family_and, fieldN_and]
    exact congrArg₂ (wordFXYN · 0 0 ·) BitVec.and_allOnes BitVec.and_allOnes
  rw [hkept]
  exact ⟨fun h => ⟨by simpa using congrArg family h, by simpa using congrArg fieldN h⟩,
    fun h => by rw [h.1, h.2]⟩

theorem and_0xF0FF_eq_iff : w &&& 0xF0FF = wordFXNN f 0 nn ↔ family w = f ∧ fieldNN w = nn := by
  have hkept : w &&& 0xF0FF = wordFXNN (family w) 0 (fieldNN w) := by
    rw [← wordFXNN_fields (w &&& 0xF0FF), fieldX_and_eq_zero w _ rfl, family_and, fieldNN_and]
    exact congrArg₂ (wordFXNN · 0 ·) BitVec.and_allOnes BitVec.and_allOnes
  rw [hkept]
  exact ⟨fun h => ⟨by simpa using congrArg family h, by simpa using congrArg fieldNN h⟩,
    fun h => by rw [h.1, h.2]⟩

end

/-! ## The row a word decodes to (R74) -/

/-- The mask of an instruction's row keeps what the decoder reads of its word. -/
theorem row_matches_encode {i : Instr} {r : OpcodeRow} (h : i.row = some r) :
    r ∈ opcodeRows ∧ encode i &&& r.mask = r.pattern := by
  cases i with
  | nop0 _ | nop5 _ _ _ | nop8 _ _ _ | nop9 _ _ _ | nopE _ _ | nopF _ _ => cases h
  | cls | ret => cases h; decide
  | jp _ | call _ | ldI _ | jpV0 _ =>
    cases h
    exact ⟨by decide, (and_0xF000_eq_iff _ _).2 (family_wordFNNN _ _)⟩
  | seImm _ _ | sneImm _ _ | ldImm _ _ | addImm _ _ | rnd _ _ =>
    cases h
    exact ⟨by decide, (and_0xF000_eq_iff _ _).2 (family_wordFXNN _ _ _)⟩
  | drw _ _ _ =>
    cases h
    exact ⟨by decide, (and_0xF000_eq_iff _ _).2 (family_wordFXYN _ _ _ _)⟩
  | seReg _ _ | sneReg _ _ | ldReg _ _ | orReg _ _ | andReg _ _ | xorReg _ _ | addReg _ _
  | subReg _ _ | shrReg _ _ | subnReg _ _ | shlReg _ _ =>
    cases h
    exact ⟨by decide,
      (and_0xF00F_eq_iff _ _ _).2 ⟨family_wordFXYN _ _ _ _, fieldN_wordFXYN _ _ _ _⟩⟩
  | skp _ | sknp _ | ldVxDt _ | ldVxK _ | ldDtVx _ | ldStVx _ | addI _ | ldF _ | ldB _
  | storeRegs _ | loadRegs _ =>
    cases h
    exact ⟨by decide, (and_0xF0FF_eq_iff _ _ _).2 ⟨family_wordFXNN _ _ _, fieldNN_wordFXNN _ _ _⟩⟩

section
variable {w w' : Word}

theorem row_decodeFamily0_congr (h : fieldNNN w = fieldNNN w') :
    (decodeFamily0 w).row = (decodeFamily0 w').row := by
  rw [decodeFamily0, decodeFamily0, h]

theorem row_decodeFamily5_congr (h : fieldN w = fieldN w') :
    (decodeFamily5 w).row = (decodeFamily5 w').row := by
  simp only [decodeFamily5, h, apply_ite Instr.row]; rfl

theorem row_decodeFamily8_congr (h : fieldN w = fieldN w') :
    (decodeFamily8 w).row = (decodeFamily8 w').row := by
  simp only [decodeFamily8, h, apply_ite Instr.row]; rfl

theorem row_decodeFamily9_congr (h : fieldN w = fieldN w') :
    (decodeFamily9 w).row = (decodeFamily9 w').row := by
  simp only [decodeFamily9, h, apply_ite Instr.row]; rfl

theorem row_decodeFamilyE_congr (h : fieldNN w = fieldNN w') :
    (decodeFamilyE w).row = (decodeFamilyE w').row := by
  simp only [decodeFamilyE, h, apply_ite Instr.row]; rfl

theorem row_decodeFamilyF_congr (h : fieldNN w = fieldNN w') :
    (decodeFamilyF w).row = (decodeFamilyF w').row := by
  simp only [decodeFamilyF, h, apply_ite Instr.row]; rfl

/-- The decoder reads the family nibble and, in the six families with a sub-opcode, the sub-opcode:
words that agree on these have the same row. -/
theorem row_decode_congr (hfamily : family w = family w')
    (hNNN : family w' = 0x0 → fieldNNN w = fieldNNN w')
    (hN : family w' ∈ [0x5#4, 0x8#4, 0x9#4] → fieldN w = fieldN w')
    (hNN : family w' ∈ [0xE#4, 0xF#4] → fieldNN w = fieldNN w') :
    (decode w).row = (decode w').row := by
  obtain ⟨k, hk⟩ : ∃ k, (family w').toNat = k := ⟨_, rfl⟩
  have hlt : k < 16 := hk ▸ (family w').isLt
  rw [family_eq_ofNat hk] at hNNN hN hNN
  unfold decode
  rw [hfamily, hk]
  match k, hlt, hNNN, hN, hNN with
  | 0x0, _, hNNN, _, _ => exact row_decodeFamily0_congr (hNNN rfl)
  | 0x5, _, _, hN, _ => exact row_decodeFamily5_congr (hN (by decide))
  | 0x8, _, _, hN, _ => exact row_decodeFamily8_congr (hN (by decide))
  | 0x9, _, _, hN, _ => exact row_decodeFamily9_congr (hN (by decide))
  | 0xE, _, _, _, hNN => exact row_decodeFamilyE_congr (hNN (by decide))
  | 0xF, _, _, _, hNN => exact row_decodeFamilyF_congr (hNN (by decide))
  | 0x1, _, _, _, _ | 0x2, _, _, _, _ | 0x3, _, _, _, _ | 0x4, _, _, _, _ | 0x6, _, _, _, _
  | 0x7, _, _, _, _ | 0xA, _, _, _, _ | 0xB, _, _, _, _ | 0xC, _, _, _, _ | 0xD, _, _, _, _ => rfl
  | k + 16, hlt, _, _, _ => omega

end

/-- The mask of a row covers what the decoder reads of a word of the row's family. -/
theorem opcodeRows_mask_covers : ∀ r ∈ opcodeRows, family r.mask = 0xF ∧
    (family r.pattern = 0x0 → fieldNNN r.mask = 0xFFF) ∧
    (family r.pattern ∈ [0x5#4, 0x8#4, 0x9#4] → fieldN r.mask = 0xF) ∧
    (family r.pattern ∈ [0xE#4, 0xF#4] → fieldNN r.mask = 0xFF) := by
  decide

theorem row_decode_of_matches {w : Word} {r : OpcodeRow} (hr : r ∈ opcodeRows)
    (h : w &&& r.mask = r.pattern) : (decode w).row = some r := by
  have hpattern : ∀ r ∈ opcodeRows, (decode r.pattern).row = some r := by decide
  obtain ⟨hfamily, hNNN, hN, hNN⟩ := opcodeRows_mask_covers r hr
  rw [← hpattern r hr]
  refine row_decode_congr ?_ (fun hf => ?_) (fun hf => ?_) (fun hf => ?_)
  · rw [← h, family_and, hfamily]; exact BitVec.and_allOnes.symm
  · rw [← h, fieldNNN_and, hNNN hf]; exact BitVec.and_allOnes.symm
  · rw [← h, fieldN_and, hN hf]; exact BitVec.and_allOnes.symm
  · rw [← h, fieldNN_and, hNN hf]; exact BitVec.and_allOnes.symm

theorem row_decode_iff (w : Word) (r : OpcodeRow) :
    (decode w).row = some r ↔ r ∈ opcodeRows ∧ w &&& r.mask = r.pattern := by
  constructor
  · intro h
    have hmatch := row_matches_encode h
    rwa [(decode_isMeaningOf w).2] at hmatch
  · exact fun ⟨hr, h⟩ => row_decode_of_matches hr h

/-- R75: the no-op instructions are those without a row. -/
theorem Instr.isNoOp_iff_row_eq_none (i : Instr) : i.isNoOp = true ↔ i.row = none := by
  cases i <;> simp [Instr.isNoOp, Instr.row]

theorem isNoOp_decode_iff (w : Word) :
    (decode w).isNoOp = true ↔ ∀ r ∈ opcodeRows, w &&& r.mask ≠ r.pattern := by
  rw [Instr.isNoOp_iff_row_eq_none, Option.eq_none_iff_forall_not_mem]
  simp only [Option.mem_def, row_decode_iff, not_and, ne_eq]

/-! ## The statements -/

/-- Settles O2: the fields of the word lead the decoder back to the row. -/
theorem decodeOfEncode : Obligations.DecodeOfEncode := decode_encode

/-- Settles O3: the fields of the word, put back into the shape of its row, are the word. -/
theorem encodeOfDecode : Obligations.EncodeOfDecode := decode_isMeaningOf

/-- Settles O4: a row is found by its mask and match, and a no-op is a word without a row. -/
theorem decodeSelectsTheUniqueRow : Obligations.DecodeSelectsTheUniqueRow :=
  ⟨row_decode_iff, isNoOp_decode_iff⟩

/-- Settles O1: the decoder run on the thirteen words. -/
theorem sampleWordsDecode : Obligations.SampleWordsDecode := by
  unfold Obligations.SampleWordsDecode
  decide

end Sys2Proof

/-!
What one instruction can do, said once (spec/30_encoding.md R83 to R85, spec/60_exceptions.md R211):
the three ways it answers and the fields its effect writes. The statements over all instructions are
read off this inversion.
-/
namespace Sys2Proof.Machine

/-! ## The instructions the statements name -/

/-- R24: the instructions that set VF as a flag or name it as their destination. -/
def mayWriteVf (i : Instr) : Prop :=
  (∃ x y, i = .orReg x y ∨ i = .andReg x y ∨ i = .xorReg x y ∨ i = .addReg x y ∨
    i = .subReg x y ∨ i = .shrReg x y ∨ i = .subnReg x y ∨ i = .shlReg x y) ∨
  (∃ x, i = .addI x) ∨ (∃ x y n, i = .drw x y n) ∨
  (∃ nn, i = .ldImm VF nn ∨ i = .addImm VF nn ∨ i = .rnd VF nn) ∨ (∃ y, i = .ldReg VF y) ∨
  i = .ldVxDt VF ∨ i = .ldVxK VF ∨ i = .loadRegs VF

/-- R83: the instructions that retry. -/
def mayRetry (i : Instr) : Prop := (∃ x y n, i = .drw x y n) ∨ ∃ x, i = .ldVxK x

/-- R213 to R216: the instructions with a check of their own. -/
def mayFault (i : Instr) : Prop :=
  i = .ret ∨ (∃ nnn, i = .call nnn) ∨ (∃ x, i = .skp x) ∨ (∃ x, i = .sknp x) ∨
    (∃ x, i = .ldB x) ∨ (∃ x, i = .storeRegs x) ∨ (∃ x, i = .loadRegs x) ∨ ∃ x y n, i = .drw x y n

/-! ## Effects and answers -/

/-- What a completed instruction has done to the state it started in, by the fields it writes. -/
inductive Effect (s : State) : Instr → State → Prop where
  | unchanged (i : Instr) : Effect s i s
  | registers {i : Instr} (v : Vector Byte 16) (hvf : v[VF] = s.v[VF] ∨ mayWriteVf i) :
      Effect s i { s with v := v }
  | jump (i : Instr) (pc : Word) (hpc : s.pc.toNat ≤ 4096 → pc.toNat ≤ 0x10FE) :
      Effect s i { s with pc := pc }
  | push (nnn : BitVec 12) (hlt : s.sp.val < 16) :
      Effect s (.call nnn) { s with
        stack := s.stack.set s.sp.val s.pc hlt, sp := ⟨s.sp.val + 1, by omega⟩
        pc := extendNNN nnn }
  | pop (k : Fin 16) (hk : s.sp.val = k.val + 1) :
      Effect s .ret { s with sp := k.castSucc, pc := s.stack[k] }
  | clear : Effect s .cls { s with fb := Framebuffer.clear }
  | draw (x y : Reg) (n : BitVec 4) (fb : Framebuffer) (v : Vector Byte 16) :
      Effect s (.drw x y n) { s with fb := fb, v := v }
  | setIndex {i : Instr} (a : Word) (hi : (∃ nnn, i = .ldI nnn) ∨ ∃ x, i = .ldF x) :
      Effect s i { s with i := a }
  | addIndex (x : Reg) (a : Word) (v : Vector Byte 16) :
      Effect s (.addI x) { s with i := a, v := v }
  | storeDigits (x : Reg) (h : s.i.toNat + 3 ≤ memorySize) :
      Effect s (.ldB x) (s.storeBytes s.i.toNat (bcdDigits (s.reg x)))
  | storeBlock (x : Reg) (h : s.i.toNat + (x.val + 1) ≤ memorySize) :
      Effect s (.storeRegs x) ((s.storeBytes s.i.toNat (regBlock s x)).advanceI x)
  | loadBlock (x : Reg) (a : Word) (v : Vector Byte 16)
      (hvf : v[VF] = s.v[VF] ∨ mayWriteVf (.loadRegs x)) :
      Effect s (.loadRegs x) { s with i := a, v := v }
  | setDelay (x : Reg) (b : Byte) : Effect s (.ldDtVx x) { s with dt := b }
  | setSound (x : Reg) (b : Byte) : Effect s (.ldStVx x) { s with st := b }
  | takeKey (x : Reg) (v : Vector Byte 16) (hvf : v[VF] = s.v[VF] ∨ mayWriteVf (.ldVxK x)) :
      Effect s (.ldVxK x) { s with v := v, pending := none }

/-- The three ways an instruction answers. -/
inductive Answers (s : State) (i : Instr) : State → Prop where
  | completes {e : State} (he : Effect s i e) : Answers s i { e with status := some .completed }
  | retries (pending : Option Key) (hi : mayRetry i)
      (hp : pending = s.pending ∨ ∃ x, i = .ldVxK x) :
      Answers s i { s with pc := s.pc - 2, pending := pending, status := some .retry }
  | faults (cause : FaultCause) (hi : mayFault i) : Answers s i (s.takeFault (s.pc - 2) cause)

/-! ## Every instruction answers -/

section
variable {s : State} {i : Instr}

/-- `exec i s` is a next state, one of the three answers. -/
def ExecAnswers (i : Instr) (s : State) : Prop := ∃ t, exec i s = .next t ∧ Answers s i t

theorem execAnswers_of_complete {e : State} (hexec : exec i s = complete e) (he : Effect s i e) :
    ExecAnswers i s := ⟨_, hexec, .completes he⟩

theorem execAnswers_of_raise {c : FaultCause} (hexec : exec i s = raise c s) (hi : mayFault i) :
    ExecAnswers i s := ⟨_, hexec, .faults c hi⟩

/-- A write to `V[x]` writes VF only where `x` is VF. -/
theorem execAnswers_of_setReg {x : Reg} {b : Byte} (hexec : exec i s = complete (s.setReg x b))
    (hi : x = VF → mayWriteVf i) : ExecAnswers i s := by
  refine execAnswers_of_complete hexec (.registers _ ?_)
  by_cases hx : x = VF
  · exact .inr (hi hx)
  · exact .inl (State.reg_setReg_ne s b (Ne.symm hx))

theorem execAnswers_of_dataThenFlag {x : Reg} {b : Byte} {f : Bool}
    (hexec : exec i s = complete (s.dataThenFlag x b f)) (hi : mayWriteVf i) : ExecAnswers i s :=
  execAnswers_of_complete hexec (.registers _ (.inr hi))

theorem execAnswers_of_logicQuirk {x : Reg} {b : Byte}
    (hexec : exec i s = complete (s.setReg x b).logicQuirk) (hi : mayWriteVf i) :
    ExecAnswers i s := by
  by_cases hq : s.config.resetVfOnLogic = true
  · rw [State.logicQuirk_of_on (s := s.setReg x b) hq] at hexec
    exact execAnswers_of_complete hexec (.registers _ (.inr hi))
  · rw [State.logicQuirk_of_off (s := s.setReg x b) (Bool.eq_false_iff.2 hq)] at hexec
    exact execAnswers_of_complete hexec (.registers _ (.inr hi))

theorem execAnswers_of_skipIf {c : Bool} (hexec : exec i s = complete (s.skipIf c)) :
    ExecAnswers i s := by
  rw [State.skipIf_eq] at hexec
  refine execAnswers_of_complete hexec (.jump i _ fun hpc => ?_)
  cases c
  · exact hpc.trans (by decide)
  · simp only [State.skipIf_pc, if_true]
    bv_omega

theorem execAnswers_of_withDataAccess {count : Nat} {e : State}
    (hexec : exec i s = withDataAccess i count s e) (hi : mayFault i)
    (he : count = 0 ∨ s.i.toNat + count ≤ memorySize → Effect s i e) : ExecAnswers i s := by
  by_cases hr : count = 0 ∨ s.i.toNat + count ≤ memorySize
  · exact execAnswers_of_complete (by rw [hexec, withDataAccess_in_range hr]) (he hr)
  · exact execAnswers_of_raise
      (by rw [hexec, withDataAccess_out_of_range (by omega) (by omega)]) hi

theorem execAnswers_of_keyTest {x : Reg} {skips : Bool → Bool}
    (hexec : exec i s = keyTest i x skips s) (hi : mayFault i) : ExecAnswers i s := by
  cases hk : keyIndex s.config.keyIndex (s.reg x) with
  | some k => exact execAnswers_of_skipIf (by rw [hexec, keyTest, hk])
  | none => exact execAnswers_of_raise (by rw [hexec, keyTest, hk]) hi

end

theorem toNat_extendNNN_le (nnn : BitVec 12) : (extendNNN nnn).toNat ≤ 0x0FFF := by
  rw [toNat_extendNNN]; omega

@[simp] theorem toNat_extendByte (b : Byte) : (extendByte b).toNat = b.toNat :=
  BitVec.toNat_setWidth_of_le (by decide)

/-- R105: the sum of BNNN is never truncated. -/
theorem toNat_extendNNN_add_extendByte (nnn : BitVec 12) (b : Byte) :
    (extendNNN nnn + extendByte b).toNat = nnn.toNat + b.toNat := by
  rw [BitVec.toNat_add, toNat_extendNNN, toNat_extendByte]
  omega

theorem execAnswers_jp (nnn : BitVec 12) (s : State) : ExecAnswers (.jp nnn) s :=
  execAnswers_of_complete rfl (.jump _ _ fun _ => (toNat_extendNNN_le nnn).trans (by decide))

theorem execAnswers_jpV0 (nnn : BitVec 12) (s : State) : ExecAnswers (.jpV0 nnn) s := by
  refine execAnswers_of_complete rfl (.jump _ _ fun _ => ?_)
  rw [toNat_extendNNN_add_extendByte]
  omega

theorem execAnswers_ret (s : State) : ExecAnswers .ret s := by
  have hexec : exec .ret s = execRet s := rfl
  unfold execRet at hexec
  split at hexec
  case h_1 target t hpop =>
    obtain ⟨hlt, hpos, rfl, rfl⟩ := State.pop?_eq_some hpop
    exact execAnswers_of_complete hexec (.pop ⟨s.sp.val - 1, hlt⟩ (by simp only; omega))
  case h_2 =>
    split at hexec
    · exact execAnswers_of_complete hexec (.unchanged _)
    · exact execAnswers_of_raise hexec (.inl rfl)

theorem execAnswers_call (nnn : BitVec 12) (s : State) : ExecAnswers (.call nnn) s := by
  have hexec : exec (.call nnn) s = execCall nnn s := rfl
  unfold execCall at hexec
  split at hexec
  case h_1 t hpush =>
    obtain ⟨hlt, rfl⟩ := State.push?_eq_some hpush
    exact execAnswers_of_complete hexec (.push nnn hlt)
  case h_2 =>
    split at hexec
    · exact execAnswers_of_complete hexec (.unchanged _)
    · exact execAnswers_of_complete hexec
        (.jump _ _ fun _ => (toNat_extendNNN_le nnn).trans (by decide))
    · exact execAnswers_of_raise hexec (by simp [mayFault])

theorem execAnswers_drw (x y : Reg) (n : BitVec 4) (s : State) : ExecAnswers (.drw x y n) s := by
  have hexec : exec (.drw x y n) s = execDrw x y n s := rfl
  unfold execDrw at hexec
  split at hexec
  · exact ⟨_, hexec, .retries s.pending (by simp [mayRetry]) (.inl rfl)⟩
  · exact execAnswers_of_withDataAccess hexec (by simp [mayFault]) fun _ => .draw x y n _ _

theorem execAnswers_ldVxK (x : Reg) (s : State) : ExecAnswers (.ldVxK x) s := by
  have hexec : exec (.ldVxK x) s = execLdVxK x s := rfl
  unfold execLdVxK at hexec
  split at hexec
  case h_1 =>
    exact ⟨_, hexec, .retries (firstKeyDown s.keys) (by simp [mayRetry]) (by simp)⟩
  case h_2 k hp =>
    split at hexec
    · exact ⟨_, hexec, .retries s.pending (by simp [mayRetry]) (.inl rfl)⟩
    · refine execAnswers_of_complete hexec (.takeKey x _ ?_)
      by_cases hx : x = VF
      · exact .inr (by simp [mayWriteVf, hx])
      · exact .inl (State.reg_setReg_ne s _ (Ne.symm hx))

theorem execAnswers_loadRegs (x : Reg) (s : State) : ExecAnswers (.loadRegs x) s := by
  refine execAnswers_of_withDataAccess rfl (by simp [mayFault]) fun _ => ?_
  rw [loadBlock_fields]
  refine .loadBlock x _ _ ?_
  by_cases hx : x = VF
  · exact .inr (by simp [mayWriteVf, hx])
  · refine .inl ((reg_loadBlock s s.i.toNat x VF).trans (if_neg fun (hle : 15 ≤ x.val) => hx ?_))
    exact Fin.ext (le_antisymm (Nat.le_of_lt_succ x.isLt) hle)

/-- R84: `exec` is total, and each instruction answers as its meaning says. -/
theorem execAnswers (i : Instr) (s : State) : ExecAnswers i s := by
  cases i with
  | nop0 _ | nop5 _ _ _ | nop8 _ _ _ | nop9 _ _ _ | nopE _ _ | nopF _ _ =>
    exact execAnswers_of_complete rfl (.unchanged _)
  | jp nnn => exact execAnswers_jp nnn s
  | jpV0 nnn => exact execAnswers_jpV0 nnn s
  | call nnn => exact execAnswers_call nnn s
  | ret => exact execAnswers_ret s
  | seImm _ _ | sneImm _ _ | seReg _ _ | sneReg _ _ => exact execAnswers_of_skipIf rfl
  | ldImm _ _ | addImm _ _ | ldReg _ _ | rnd _ _ | ldVxDt _ =>
    exact execAnswers_of_setReg rfl fun hx => by simp [mayWriteVf, hx]
  | orReg _ _ | andReg _ _ | xorReg _ _ =>
    exact execAnswers_of_logicQuirk rfl (by simp [mayWriteVf])
  | addReg _ _ | subReg _ _ | shrReg _ _ | subnReg _ _ | shlReg _ _ =>
    exact execAnswers_of_dataThenFlag rfl (by simp [mayWriteVf])
  | ldI _ | ldF _ => exact execAnswers_of_complete rfl (.setIndex _ (by simp))
  | addI x => exact execAnswers_of_complete rfl (.addIndex x _ _)
  | cls => exact execAnswers_of_complete rfl .clear
  | drw x y n => exact execAnswers_drw x y n s
  | skp x => exact execAnswers_of_keyTest (skips := fun down => down) rfl (by simp [mayFault])
  | sknp x => exact execAnswers_of_keyTest (skips := fun down => !down) rfl (by simp [mayFault])
  | ldVxK x => exact execAnswers_ldVxK x s
  | ldDtVx x => exact execAnswers_of_complete rfl (.setDelay x _)
  | ldStVx x => exact execAnswers_of_complete rfl (.setSound x _)
  | ldB x =>
    exact execAnswers_of_withDataAccess rfl (by simp [mayFault]) fun h => .storeDigits x (by omega)
  | storeRegs x =>
    exact execAnswers_of_withDataAccess rfl (by simp [mayFault]) fun h => .storeBlock x (by omega)
  | loadRegs x => exact execAnswers_loadRegs x s

theorem exec_cases {i : Instr} {s t : State} (h : exec i s = .next t) : Answers s i t := by
  obtain ⟨t', hexec, ht'⟩ := execAnswers i s
  obtain rfl : t' = t := Host.Outcome.next.inj (hexec.symm.trans h)
  exact ht'

/-! ## The statements over all instructions -/

/-- R211: no effect touches the fault latch. -/
theorem Effect.fault_eq {s e : State} {i : Instr} (h : Effect s i e) : e.fault = s.fault := by
  cases h <;> rfl

/-- Settles O47: the three answers of `execAnswers`. -/
theorem everyInstructionAnswersAStatus : Obligations.EveryInstructionAnswersAStatus := by
  intro i s
  obtain ⟨t, hexec, ht⟩ := execAnswers i s
  refine ⟨t, hexec, ?_⟩
  cases ht with
  | completes he => exact .inl ⟨rfl, he.fault_eq⟩
  | retries pending hi hp => exact .inr (.inl ⟨hi, rfl⟩)
  | faults cause hi => exact .inr (.inr ⟨hi, cause, rfl⟩)

/-- Settles O48: an effect that writes a field belongs to an instruction its rule names; a retry
writes PC and the latch, a fault PC and the record. -/
theorem onlyTheNamedInstructionsWrite : Obligations.OnlyTheNamedInstructionsWrite := by
  intro i s t h
  cases exec_cases h with
  | retries pending hi hp => simpa using hp.resolve_left
  | faults cause hi => simp [State.takeFault]
  | completes he =>
    clear h
    cases he with
    | setIndex a hi =>
      simp only [ne_eq, not_true_eq_false, false_imp_iff, true_and, and_true]
      tauto
    | storeDigits x hr => simp [State.storeBytes]
    | storeBlock x hr => simp [State.storeBytes, State.advanceI]
    | _ => simp

theorem Effect.reg_VF {s e : State} {i : Instr} (h : Effect s i e) :
    e.reg VF = s.reg VF ∨ mayWriteVf i := by
  cases h with
  | registers v hvf | loadBlock x a v hvf | takeKey x v hvf => exact hvf
  | addIndex | draw => exact .inr (by simp [mayWriteVf])
  | _ => exact .inl rfl

/-- Settles O49: only an effect writes registers. -/
theorem vfChangesOnlyAsFlagOrDestination : Obligations.VfChangesOnlyAsFlagOrDestination := by
  intro i s t h hne
  cases exec_cases h with
  | completes he => exact he.reg_VF.resolve_left hne
  | retries | faults => exact absurd rfl hne

theorem Effect.pc_le {s e : State} {i : Instr} (h : Effect s i e) (hpc : s.pc.toNat ≤ 4096) :
    e.pc.toNat ≤ 0x10FE ∨ (i = .ret ∧ ∃ k : Fin 16, s.sp.val = k.val + 1 ∧ e.pc = s.stack[k]) := by
  cases h with
  | jump i pc hle => exact .inl (hle hpc)
  | push nnn hlt => exact .inl ((toNat_extendNNN_le nnn).trans (by decide))
  | pop k hk => exact .inr ⟨rfl, k, hk, rfl⟩
  | _ => exact .inl (hpc.trans (by decide))

/-- Settles O50: a completed instruction leaves PC where `Effect.pc_le` says; a retry or a fault puts
it back by the two the fetch has passed. -/
theorem pcIsAtMost10FEOrPopped : Obligations.PcIsAtMost10FEOrPopped := by
  intro i s t h2 hpc h
  have hback : (s.pc - 2).toNat ≤ 0x10FE := by bv_omega
  cases exec_cases h with
  | completes he => exact he.pc_le hpc
  | retries | faults => exact .inl hback

theorem cycle_answers (keys : Keypad) (rnd : Byte) (fci : Nat) (s : State) :
    ∃ t, cycle keys rnd fci s = .next t := by
  by_cases hrun : s.running
  · by_cases hpc : s.pc.toNat + 1 < memorySize
    · obtain ⟨t, hexec, -⟩ := execAnswers (decode s.wordAtPc)
        { s with pc := s.pc + 2, keys := keys, rnd := rnd, fci := fci }
      exact ⟨t, (cycle_of_fetch hrun hpc).trans hexec⟩
    · exact ⟨_, cycle_of_fetch_fault hrun (by omega)⟩
  · exact ⟨_, cycle_of_halted hrun⟩

/-- A step is the end of its cycle. -/
theorem step_of_cycle {s t : State}
    (h : cycle s.nextKeys s.nextRnd s.fci s.consumeInput = .next t) :
    step s = .next (endCycle t) := by
  rw [step, h]

/-- Settles O51: the cycle of a step always answers a next state. -/
theorem stepAlwaysAnswers : Obligations.StepAlwaysAnswers := fun s =>
  let ⟨_, ht⟩ := cycle_answers s.nextKeys s.nextRnd s.fci s.consumeInput
  ⟨_, step_of_cycle ht⟩

end Sys2Proof.Machine

/-!
The invariant (spec/10_state.md sections 4 and 5, spec/44_timers_input.md section 3,
spec/60_exceptions.md sections 1 and 4): it reads eight fields of the state, every answer of an
instruction keeps it, and so do the end of a tick and the host's actions.
-/
namespace Sys2Proof.Machine

/-! ## What the invariant reads -/

theorem State.awaitsKey_iff {s : State} :
    s.awaitsKey ↔ s.pc.toNat + 1 < memorySize ∧ ∃ x, decode s.wordAtPc = .ldVxK x := by
  simp [State.awaitsKey, State.fetches_iff]

/-- Waiting for a key is a matter of the memory, the font and PC. -/
theorem State.awaitsKey_congr {s t : State} (hpc : t.pc = s.pc) (hmem : t.mem = s.mem)
    (hconfig : t.config = s.config) : t.awaitsKey ↔ s.awaitsKey := by
  rw [State.awaitsKey_iff, State.awaitsKey_iff, State.wordAtPc, State.wordAtPc, State.readByte,
    State.readByte, State.readByte, State.readByte, hpc, hmem, hconfig]

/-- The invariant over states that agree on all it reads but the frame-cycle index and the two
latches. -/
theorem Inv.congr {s t : State} (h : Inv s) (hmem : t.mem = s.mem) (hconfig : t.config = s.config)
    (hpc : t.pc = s.pc) (hsp : t.sp = s.sp) (hstack : t.stack = s.stack)
    (hfci : t.fci < s.config.budget)
    (hfault : ∀ f, t.fault = some f → f.pc = s.pc) (hpending : t.pending ≠ none → s.awaitsKey) :
    Inv t where
  memCanonical := by rw [hmem, hconfig]; exact h.memCanonical
  pcBound := by rw [hpc]; exact h.pcBound
  stackBound := by rw [hsp, hstack]; exact h.stackBound
  ipsBound := by rw [hconfig]; exact h.ipsBound
  fciBound := by rw [hconfig]; exact hfci
  faultAtPc := by rw [hpc]; exact hfault
  latchWaits := by rw [State.awaitsKey_congr hpc hmem hconfig]; exact hpending

theorem Inv.consumeInput {s : State} (h : Inv s) : Inv s.consumeInput := by
  apply h.congr <;> simp only [State.consumeInput_mem, State.consumeInput_config,
    State.consumeInput_pc, State.consumeInput_sp, State.consumeInput_stack, State.consumeInput_fci,
    State.consumeInput_fault, State.consumeInput_pending]
  · exact h.fciBound
  · exact h.faultAtPc
  · exact h.latchWaits

/-! ## What an effect keeps -/

section
variable {s e : State} {i : Instr}

theorem Effect.config_eq (h : Effect s i e) : e.config = s.config := by cases h <;> rfl

theorem Effect.fci_eq (h : Effect s i e) : e.fci = s.fci := by cases h <;> rfl

/-- No effect latches a key: only a retry does. -/
theorem Effect.pending_eq (h : Effect s i e) : e.pending = s.pending ∨ e.pending = none := by
  cases h with
  | takeKey => exact .inr rfl
  | _ => exact .inl rfl

theorem length_bcdDigits (b : Byte) : (bcdDigits b).length = 3 := rfl

/-- The two stores write in range. -/
theorem Effect.mem_wf (h : Effect s i e) (hwf : Memory.wf s.config.font s.mem = true) :
    Memory.wf e.config.font e.mem = true := by
  cases h with
  | storeDigits x hr =>
    exact State.storeBytes_keeps_wf s (by rw [length_bcdDigits]; exact hr) hwf
  | storeBlock x hr =>
    exact State.storeBytes_keeps_wf s (by rw [length_regBlock]; exact hr) hwf
  | _ => exact hwf

/-- R100: a live entry is one that was live or the PC a CALL pushes. -/
theorem Effect.stack_le (h : Effect s i e) (hpc : s.pc.toNat ≤ 0x1000)
    (hstack : ∀ k : Fin 16, k.val < s.sp.val → (s.stack[k]).toNat ≤ 0x1000) :
    ∀ k : Fin 16, k.val < e.sp.val → (e.stack[k]).toNat ≤ 0x1000 := by
  cases h with
  | push nnn hlt =>
    intro k hk
    simp only [Fin.getElem_fin, Vector.getElem_set]
    split
    · exact hpc
    · exact hstack k (by simp only at hk; omega)
  | pop j hj =>
    intro k hk
    exact hstack k (by simp only [Fin.val_castSucc] at hk; omega)
  | _ => exact hstack

end

/-- R186: an FX0A that completes empties the latch. -/
theorem pending_of_ldVxK_completed {s t : State} {x : Reg} (h : exec (.ldVxK x) s = .next t)
    (hstatus : t.status = some .completed) : t.pending = none := by
  have hexec : execLdVxK x s = .next t := h
  unfold execLdVxK at hexec
  split at hexec
  · rw [retry_eq_next] at hexec
    subst hexec
    cases hstatus
  · split at hexec
    · rw [retry_eq_next] at hexec
      subst hexec
      cases hstatus
    · rw [complete_eq_next] at hexec
      rw [hexec]

/-! ## The cycle -/

/-- R80, R83, R211: a cycle stays at its PC (halted, retry, fault) or completes an effect, which a
latched key allows only where it empties the latch (R187). -/
theorem Inv.cycle {s t : State} (h : Inv s) {keys : Keypad} {rnd : Byte}
    (hcycle : cycle keys rnd s.fci s = .next t) : Inv t := by
  obtain ⟨-, rfl⟩ | ⟨-, -, rfl⟩ | ⟨hrun, hpc, hexec⟩ := cycle_cases hcycle
  · exact h.congr rfl rfl rfl rfl rfl h.fciBound h.faultAtPc h.latchWaits
  · exact h.congr rfl rfl rfl rfl rfl h.fciBound (fun f hf => by cases hf; rfl) h.latchWaits
  have hpcAfter : (s.pc + 2).toNat ≤ 0x1000 := by
    simp only [memorySize] at hpc
    bv_omega
  have hback : s.pc + 2 - 2 = s.pc := BitVec.add_sub_cancel _ _
  cases exec_cases hexec with
  | retries pending hi hp =>
    refine h.congr rfl rfl hback rfl rfl h.fciBound h.faultAtPc fun hne => ?_
    rcases hp with hp | hp
    · exact h.latchWaits (hp ▸ hne)
    · exact State.awaitsKey_iff.2 ⟨hpc, hp⟩
  | faults cause hi =>
    exact h.congr rfl rfl hback rfl rfl h.fciBound (fun f hf => by cases hf; exact hback)
      h.latchWaits
  | @completes e he =>
    have hlatch : e.pending = none := by
      by_cases hnone : s.pending = none
      · exact he.pending_eq.elim (fun heq => heq.trans hnone) id
      · obtain ⟨-, x, hx⟩ := State.awaitsKey_iff.1 (h.latchWaits hnone)
        rw [hx] at hexec
        exact pending_of_ldVxK_completed (t := { e with status := some .completed }) hexec rfl
    have hfault : e.fault = none := he.fault_eq.trans hrun.2
    exact {
      memCanonical := he.mem_wf h.memCanonical
      pcBound := by
        rcases he.pc_le hpcAfter with hle | ⟨-, k, hk, heq⟩
        · exact hle
        · show e.pc.toNat ≤ 0x10FE
          rw [heq]
          exact (h.stackBound k (by rw [hk]; exact Nat.lt_succ_self _)).trans (by decide)
      stackBound := he.stack_le hpcAfter h.stackBound
      ipsBound := by
        show 60 ≤ e.config.ips
        rw [he.config_eq]
        exact h.ipsBound
      fciBound := by
        show e.fci < e.config.budget
        rw [he.fci_eq, he.config_eq]
        exact h.fciBound
      faultAtPc := fun f hf => by
        rw [show e.fault = some f from hf] at hfault
        cases hfault
      latchWaits := fun hne => absurd hlatch hne }

/-! ## The end of a tick and the host -/

/-- R224, R240: with IPS at least 60 a tick has at least one cycle. -/
theorem Configuration.budget_pos {c : Configuration} (h : 60 ≤ c.ips) : 0 < c.budget :=
  Nat.div_pos h (by decide)

/-- R243: what a load or reset leaves meets the invariant when its tick is at index 0. -/
theorem inv_initialise {bytes : List Byte} {s : State} {r : LoadResult}
    (hlen : bytes.length ≤ programCapacity) (hips : 60 ≤ s.config.ips) (hfci : s.fci = 0) :
    Inv { initialise bytes s with lastLoad := some r } where
  memCanonical := initialise_mem_wf bytes s hlen
  pcBound := show (0x0200 : Word).toNat ≤ 0x10FE by decide
  stackBound := fun k hk => absurd hk (Nat.not_lt_zero _)
  ipsBound := hips
  fciBound := by
    show s.fci < s.config.budget
    rw [hfci]
    exact Configuration.budget_pos hips
  faultAtPc := fun _ hf => nomatch hf
  latchWaits := fun hne => absurd rfl hne

theorem Inv.loadFails {s : State} (h : Inv s) (e : LoadResult) : Inv (loadFails e s) :=
  h.congr rfl rfl rfl rfl rfl h.fciBound h.faultAtPc h.latchWaits

/-- Between two ticks the frame-cycle index is 0, and every action of the host keeps that. -/
theorem inv_hostAct {s : State} (a : HostAction) (h : Inv s ∧ s.fci = 0) :
    Inv (hostAct s a) ∧ (hostAct s a).fci = 0 := by
  obtain ⟨hinv, hfci⟩ := h
  cases a with
  | pausedTick => exact ⟨hinv, hfci⟩
  | load program config =>
    rw [hostAct]
    obtain ⟨e, hfail⟩ | ⟨bytes, -, hlen, hips, hok⟩ := load_cases program config s
    · rw [hfail]
      exact ⟨hinv.loadFails e, hfci⟩
    · rw [hok]
      exact ⟨inv_initialise hlen hips hfci, hfci⟩
  | reset program =>
    rw [hostAct]
    obtain ⟨e, hfail⟩ | ⟨bytes, -, hlen, -, hok⟩ := resetCore_cases program s
    · rw [hfail]
      exact ⟨hinv.loadFails e, hfci⟩
    · rw [hok]
      exact ⟨inv_initialise hlen hinv.ipsBound hfci, hfci⟩

theorem Inv.betweenTicks {s : State} (h : Inv s) (hfci : s.fci = 0) : Inv (betweenTicks s) := by
  have hkeeps := betweenTicks_keeps (P := fun t => Inv t ∧ t.fci = 0)
    (fun rest (h : Inv s ∧ s.fci = 0) =>
      ⟨h.1.congr rfl rfl rfl rfl rfl h.1.fciBound h.1.faultAtPc h.1.latchWaits, h.2⟩)
    (fun _ a h => inv_hostAct a h) ⟨h, hfci⟩
  exact hkeeps.1

theorem State.tickEnds_eq_false {s : State} : s.tickEnds = false ↔
    s.status ≠ some .faulted ∧ s.status ≠ some .halted ∧ s.fci + 1 < s.config.budget := by
  simp [State.tickEnds, and_assoc]

/-- R225: the index moves on while budget is left, else to 0. -/
theorem Inv.endCycle {s : State} (h : Inv s) : Inv (endCycle s) := by
  cases hends : s.tickEnds with
  | false =>
    rw [endCycle_mid_tick hends]
    obtain ⟨-, -, hbudget⟩ := State.tickEnds_eq_false.1 hends
    exact h.congr rfl rfl rfl rfl rfl hbudget h.faultAtPc h.latchWaits
  | true =>
    rw [endCycle_tick_end hends]
    have htimers : Inv { (timerTick s).present with fci := 0 } :=
      h.congr (timerTick_mem s) (timerTick_config s) (timerTick_pc s) (timerTick_sp s)
        (timerTick_stack s) (Configuration.budget_pos h.ipsBound)
        (fun f hf => h.faultAtPc f ((timerTick_fault s).symm.trans hf))
        (fun hne => h.latchWaits (timerTick_pending s ▸ hne))
    exact htimers.betweenTicks rfl

/-! ## The statements -/

/-- Settles O52: by evaluation of the reset state. -/
theorem invariantHoldsAtReset : Obligations.InvariantHoldsAtReset where
  memCanonical := State.reset_mem_wf
  pcBound := by decide
  stackBound := fun k hk => absurd hk (Nat.not_lt_zero _)
  ipsBound := by decide
  fciBound := by decide
  faultAtPc := fun _ hf => nomatch hf
  latchWaits := fun hne => absurd rfl hne

/-- Settles O53: the inputs are consumed, the cycle runs, and the scheduler follows. -/
theorem stepKeepsTheInvariant : Obligations.StepKeepsTheInvariant := by
  intro s s' hinv hstep
  obtain ⟨t, hcycle, rfl⟩ := step_cases hstep
  rw [← State.consumeInput_fci s] at hcycle
  exact (hinv.consumeInput.cycle hcycle).endCycle

end Sys2Proof.Machine

/-!
The statements about one instruction: its word (spec/30_encoding.md R71, R73), what it leaves where
it completes, and the fault it takes where its own check fails (spec/60_exceptions.md R211 to R216).
-/
namespace Sys2Proof.Machine

/-! ## Words and faults -/

/-- The word of a well-formed instruction decodes back by `decode_encode`. -/
theorem hasWord_of_toNat {i : Instr} {w : Nat} (h : (encode i).toNat = w)
    (hwf : i.wellFormed = true := by rfl) : HasWord i w := ⟨h, decode_encode i hwf⟩

theorem hasWord_of_wordFXNN (i : Instr) {f : BitVec 4} {x : Reg} {nn : Byte}
    (hencode : encode i = wordFXNN f x nn) (hwf : i.wellFormed = true := by rfl) :
    HasWord i (f.toNat * 4096 + nn.toNat + 256 * x.val) :=
  hasWord_of_toNat (by rw [hencode, toNat_wordFXNN]; omega) hwf

/-- A fault record's word is the instruction's (log entry 9). -/
theorem HasWord.ofNat_eq {i : Instr} {w : Nat} (h : HasWord i w) :
    BitVec.ofNat 16 w = encode i := by
  rw [← h.1, BitVec.ofNat_toNat, BitVec.setWidth_eq]

/-- R65, R213: an access out of range, with the instruction's word as a number. -/
theorem faultsWith_of_withDataAccess {i : Instr} {w count : Nat} {s e : State} (hw : HasWord i w)
    (hexec : exec i s = withDataAccess i count s e) (hpos : 0 < count)
    (hr : 4096 < s.i.toNat + count) :
    FaultsWith i s (.dataOutOfRange (BitVec.ofNat 16 w) (max s.i.toNat 4096)) := by
  rw [hw.ofNat_eq]
  exact hexec.trans (withDataAccess_out_of_range hpos hr)

/-! ## Arithmetic, random numbers and skips on registers -/

/-- Settles O13: one completed register write, the sum being BitVec's. -/
theorem addImmediateWrapsWithoutAFlag : Obligations.AddImmediateWrapsWithoutAFlag := by
  intro s x nn
  refine ⟨hasWord_of_toNat (by simp [encode, toNat_wordFXNN, Nat.mul_comm]), ?_⟩
  rw [← BitVec.add_def]
  exact completesWriting_of_setReg rfl

/-- Settles O17: one completed register write of the masked input. -/
theorem randomByteIsMasked : Obligations.RandomByteIsMasked := fun _ x nn =>
  ⟨hasWord_of_toNat (by simp [encode, toNat_wordFXNN, Nat.mul_comm]),
    completesWriting_of_setReg rfl⟩

/-- Settles O19: each instruction is a completed skip on its own comparison. -/
theorem skipsOnRegisters : Obligations.SkipsOnRegisters := by
  intro s x y
  have hse : HasWord (.seReg x y) (0x5000 + 256 * x.val + 16 * y.val) :=
    hasWord_of_toNat (by simp [encode, toNat_wordFXYN, Nat.mul_comm])
  have hsne : HasWord (.sneReg x y) (0x9000 + 256 * x.val + 16 * y.val) :=
    hasWord_of_toNat (by simp [encode, toNat_wordFXYN, Nat.mul_comm])
  exact ⟨⟨hse, completesSkipping_of_skipIf rfl beq_iff_eq⟩,
    hsne, completesSkipping_of_skipIf rfl bne_iff_ne⟩

/-! ## Jumps, CALL and RET -/

/-- Settles O21: the meaning writes the sum, which 16 bits hold, to PC and completes. -/
theorem jumpWithOffsetAddsV0 : Obligations.JumpWithOffsetAddsV0 := fun s nnn =>
  ⟨hasWord_of_toNat (toNat_wordFNNN 0xB nnn),
    { s with pc := extendNNN nnn + extendByte (s.reg 0), status := some .completed }, rfl,
    toNat_extendNNN_add_extendByte nnn (s.reg 0), fun _ => rfl, rfl⟩

/-- R102: CALL with room on the stack. -/
theorem exec_call_of_lt {s : State} (nnn : BitVec 12) (h : s.sp.val < 16) :
    exec (.call nnn) s = .next { s with
      stack := s.stack.set s.sp.val s.pc h, sp := ⟨s.sp.val + 1, by omega⟩, pc := extendNNN nnn,
      status := some .completed } := by
  have hpush : s.push? s.pc =
      some { s with stack := s.stack.set s.sp.val s.pc h, sp := ⟨s.sp.val + 1, by omega⟩ } :=
    dif_pos h
  simp only [exec, execCall, hpush, complete]

section
variable {s : State} (nnn : BitVec 12) (h : s.sp.val = 16)
include h

theorem exec_call_full_ignore (hp : s.config.stackOverflow = .ignore) :
    exec (.call nnn) s = complete s := by
  simp only [exec, execCall, State.push?_eq_none.2 h, hp]

theorem exec_call_full_jumpNoPush (hp : s.config.stackOverflow = .jumpNoPush) :
    exec (.call nnn) s = complete { s with pc := extendNNN nnn } := by
  simp only [exec, execCall, State.push?_eq_none.2 h, hp]

theorem exec_call_full_fault (hp : s.config.stackOverflow = .fault) :
    exec (.call nnn) s = raise (.stackOverflow (encode (.call nnn))) s := by
  simp only [exec, execCall, State.push?_eq_none.2 h, hp]

end

/-- R100: RET with an entry to pop. -/
theorem exec_ret_of_succ {s : State} {k : Fin 16} (h : s.sp.val = k.val + 1) :
    exec .ret s =
      .next { s with sp := k.castSucc, pc := s.stack[k], status := some .completed } := by
  have hpop : s.pop? = some (s.stack[k], { s with sp := k.castSucc }) := by
    simp [State.pop?, h, Fin.castSucc, Fin.castAdd, Fin.castLE]
  simp only [exec, execRet, hpop, complete]

theorem exec_ret_empty_ignore {s : State} (h : s.sp.val = 0) (hp : s.config.retEmpty = .ignore) :
    exec .ret s = complete s := by
  simp only [exec, execRet, State.pop?_eq_none.2 h, hp]

theorem exec_ret_empty_fault {s : State} (h : s.sp.val = 0) (hp : s.config.retEmpty = .fault) :
    exec .ret s = raise (.stackUnderflow (encode .ret)) s := by
  simp only [exec, execRet, State.pop?_eq_none.2 h, hp]

/-- Settles O22: with room the push of `exec_call_of_lt`, with a full stack the policy's branch. -/
theorem callPushesTheReturnAddress : Obligations.CallPushesTheReturnAddress := by
  intro s nnn
  have hword : HasWord (.call nnn) (0x2000 + nnn.toNat) := hasWord_of_toNat (toNat_wordFNNN 0x2 nnn)
  refine ⟨hword, fun hlt => ?_, fun hfull => ⟨fun hp => ?_, fun hp => ?_, fun hp => ?_⟩⟩
  · refine ⟨_, exec_call_of_lt nnn hlt, rfl, fun k => ?_, toNat_extendNNN nnn, fun _ => rfl, rfl⟩
    simp only [Fin.getElem_fin, Vector.getElem_set, eq_comm]
  · exact exec_call_full_ignore nnn hfull hp
  · exact ⟨_, exec_call_full_jumpNoPush nnn hfull hp, toNat_extendNNN nnn, fun _ => rfl, rfl⟩
  · rw [hword.ofNat_eq]; exact exec_call_full_fault nnn hfull hp

/-- Settles O23: with an entry the pop of `exec_ret_of_succ`, with none the policy's branch. -/
theorem retPopsTheReturnAddress : Obligations.RetPopsTheReturnAddress := by
  intro s
  have hword : HasWord .ret 0x00EE := hasWord_of_toNat rfl
  refine ⟨hword, fun k hk => ?_, fun hempty => ⟨fun hp => ?_, fun hp => ?_⟩⟩
  · exact ⟨_, exec_ret_of_succ hk, rfl, rfl, fun _ => rfl, rfl⟩
  · exact exec_ret_empty_ignore hempty hp
  · exact exec_ret_empty_fault hempty hp

/-- Settles O24: the entry RET pops is the one the CALL pushed. -/
theorem returnComesBackAfterTheCall : Obligations.ReturnComesBackAfterTheCall := by
  intro s t u nnn hlt hcall hsp hstack
  obtain rfl := Host.Outcome.next.inj ((exec_call_of_lt nnn hlt).symm.trans hcall)
  have hk : u.sp.val = (⟨s.sp.val, hlt⟩ : Fin 16).val + 1 := by rw [hsp]
  refine ⟨_, exec_ret_of_succ hk, ?_, rfl⟩
  simp [hstack]

/-! ## The index register -/

/-- Settles O26: I takes the sum modulo 2^16, then VF the flag of the untruncated sum (R23). -/
theorem addToIndexAndFlag : Obligations.AddToIndexAndFlag := by
  intro s x
  have hreg (f : Bool) (r : Reg) := State.reg_setFlag { s with i := s.i + extendByte (s.reg x) } f r
  refine ⟨hasWord_familyF (.addI x) rfl, _, rfl, ?_, fun hover => ?_, fun hbelow => ?_,
    fun r hr => ?_, fun _ => rfl, rfl⟩
  · exact (BitVec.toNat_add _ _).trans (by rw [toNat_extendByte])
  · have hflag : indexOverflow s.i (s.reg x) = true := decide_eq_true hover
    exact (hreg _ VF).trans (by rw [if_pos rfl, hflag]; rfl)
  · have hflag : indexOverflow s.i (s.reg x) = false := decide_eq_false (by omega)
    exact (hreg _ VF).trans (by rw [if_pos rfl, hflag]; rfl)
  · exact (hreg _ r).trans (if_neg hr)

@[simp] theorem val_lowNibble (b : Byte) : (lowNibble b).val = b.toNat % 16 := by
  simp [lowNibble]

/-- R142: no digit takes the address past 16 bits. -/
theorem toNat_glyphAddress {d : Nat} (h : d < 256) : (glyphAddress d).toNat = 0x050 + 5 * d := by
  rw [glyphAddress, BitVec.toNat_ofNat]
  omega

/-- Settles O27: the meaning writes the glyph address of the policy's digit to I and completes. -/
theorem fontGlyphAddress : Obligations.FontGlyphAddress := by
  intro s x
  refine ⟨hasWord_familyF (.ldF x) rfl, _, rfl, fun hp => ?_, fun hp => ?_, fun _ => rfl, rfl⟩
  · show (glyphAddress (fontDigit s.config.fontDigit (s.reg x))).toNat = _
    rw [hp, fontDigit, val_lowNibble, toNat_glyphAddress (by omega)]
  · show (glyphAddress (fontDigit s.config.fontDigit (s.reg x))).toNat = _
    rw [hp, fontDigit, toNat_glyphAddress (s.reg x).isLt]

/-! ## Stores and loads through I -/

/-- R144: FX55 in range stores the block and advances I. -/
theorem exec_storeRegs_in_range {s : State} {x : Reg} (h : s.i.toNat + x.val < 4096) :
    exec (.storeRegs x) s =
      complete ((s.storeBytes s.i.toNat (regBlock s x)).advanceI x) :=
  withDataAccess_in_range (.inr h)

/-- R145: FX65 in range loads the block and advances I. -/
theorem exec_loadRegs_in_range {s : State} {x : Reg} (h : s.i.toNat + x.val < 4096) :
    exec (.loadRegs x) s = complete ((loadBlock s s.i.toNat x).advanceI x) :=
  withDataAccess_in_range (.inr h)

/-- R144, R145: in range the advance of I does not wrap. -/
theorem toNat_advanceI {s : State} {x : Reg} (h : s.i.toNat + x.val < 4096) :
    (s.advanceI x).i.toNat = s.i.toNat + x.val + 1 := by
  rw [State.advanceI, BitVec.toNat_add, BitVec.toNat_ofNat]
  omega

/-- R144: byte I + k of a block store is register k. -/
theorem readByte_storeBlock {s : State} {x r : Reg} (hwf : Memory.wf s.config.font s.mem = true)
    (h : s.i.toNat + x.val < 4096) (hr : r ≤ x) :
    (s.storeBytes s.i.toNat (regBlock s x)).readByte (s.i.toNat + r.val) = s.reg r := by
  have hlen := length_regBlock s x
  rw [s.readByte_storeBytes_inside hwf (by rw [hlen]; exact h)
    (by rw [hlen]; exact Nat.lt_succ_of_le hr), getElem_regBlock]

theorem toNat_ofNat_of_lt {d : Nat} (h : d < 256) : (BitVec.ofNat 8 d).toNat = d := by
  rw [BitVec.toNat_ofNat, Nat.mod_eq_of_lt h]

/-- Settles O28: in range the three digits are stored, out of range the access faults. -/
theorem bcdStore : Obligations.BcdStore := by
  intro s x hwf
  have hword : HasWord (.ldB x) (0xF033 + 256 * x.val) := hasWord_familyF (.ldB x) rfl
  refine ⟨hword, fun hin => ?_, fun hout => ?_⟩
  · have hdigit {k : Nat} (hk : k < 3) :
        (s.storeBytes s.i.toNat (bcdDigits (s.reg x))).readByte (s.i.toNat + k) =
          (bcdDigits (s.reg x))[k]'hk :=
      s.readByte_storeBytes_inside hwf hin hk
    have hb := (s.reg x).isLt
    refine ⟨_, withDataAccess_in_range (.inr hin), ?_, ?_, ?_, fun a ha => ?_, rfl⟩
    · exact (congrArg BitVec.toNat (hdigit (k := 0) (by decide))).trans
        (toNat_ofNat_of_lt (by omega))
    · exact (congrArg BitVec.toNat (hdigit (k := 1) (by decide))).trans
        (toNat_ofNat_of_lt (by omega))
    · exact (congrArg BitVec.toNat (hdigit (k := 2) (by decide))).trans
        (toNat_ofNat_of_lt (by omega))
    · exact s.readByte_storeBytes_outside ha
  · exact faultsWith_of_withDataAccess hword rfl (by decide) (by omega)

/-- Settles O29: in range the block is stored register by register, out of range the access
faults. -/
theorem blockStore : Obligations.BlockStore := by
  intro s x hwf
  have hword : HasWord (.storeRegs x) (0xF055 + 256 * x.val) := hasWord_familyF (.storeRegs x) rfl
  refine ⟨hword, fun hin => ?_, fun hout => ?_⟩
  · refine ⟨_, exec_storeRegs_in_range hin, fun r hr => readByte_storeBlock hwf hin hr,
      fun a ha => ?_, toNat_advanceI (s := s.storeBytes _ _) hin, rfl⟩
    exact s.readByte_storeBytes_outside (by rw [length_regBlock]; omega)
  · exact faultsWith_of_withDataAccess hword rfl (Nat.succ_pos _) (by omega)

/-- Settles O30: in range `reg_loadBlock` reads the registers off memory, out of range the access
faults. -/
theorem blockLoad : Obligations.BlockLoad := by
  intro s x
  have hword : HasWord (.loadRegs x) (0xF065 + 256 * x.val) := hasWord_familyF (.loadRegs x) rfl
  refine ⟨hword, fun hin => ?_, fun hout => ?_⟩
  · have hexec := exec_loadRegs_in_range hin
    have hreg (r : Reg) := reg_loadBlock s s.i.toNat x r
    rw [loadBlock_fields] at hexec
    refine ⟨_, hexec, fun r hr => (hreg r).trans (if_pos hr),
      fun r hr => (hreg r).trans (if_neg (not_le.2 hr)), toNat_advanceI (s := s) hin,
      fun _ => rfl, rfl⟩
  · exact faultsWith_of_withDataAccess hword rfl (Nat.succ_pos _) (by omega)

/-- Settles O31: the load of `blockLoad` reads the bytes the store of `blockStore` left. -/
theorem blockStoreThenLoadRestores : Obligations.BlockStoreThenLoadRestores := by
  intro s t x v hwf hin hstore
  obtain ⟨t', hstore', hread, -, hti, -⟩ := (blockStore s x hwf).2.1 hin
  obtain rfl := Host.Outcome.next.inj (hstore'.symm.trans hstore)
  obtain ⟨u, hload, hlow, hhigh, hui, -, hu⟩ := (blockLoad { t' with i := s.i, v := v } x).2.1 hin
  exact ⟨u, hload, fun r hr => (hlow r hr).trans (hread r hr), hhigh, by rw [hu],
    BitVec.eq_of_toNat_eq (hui.trans hti.symm)⟩

/-! ## The keypad -/

/-- R185: the key is Vx where Vx is below 16, and its low nibble under `low_nibble`. -/
theorem keyIndex_eq_some {p : KeyIndexPolicy} {b : Byte} {k : Key}
    (h : k.val = b.toNat ∨ (p = .lowNibble ∧ k.val = b.toNat % 16)) : keyIndex p b = some k := by
  have hk : k = lowNibble b := by
    apply Fin.ext
    rw [val_lowNibble]
    omega
  unfold keyIndex
  split
  · rw [hk]
  · obtain ⟨rfl, -⟩ := h.resolve_left (by omega)
    rw [hk]

theorem keyIndex_fault {b : Byte} (h : 15 < b.toNat) : keyIndex .fault b = none := by
  rw [keyIndex, if_neg (by omega)]

section
variable {i : Instr} {s : State} {x : Reg} {skips : Bool → Bool}

theorem completesSkipping_of_keyTest {k : Key} {c : Prop} (hexec : exec i s = keyTest i x skips s)
    (hk : keyIndex s.config.keyIndex (s.reg x) = some k) (hc : skips s.keys[k] = true ↔ c) :
    CompletesSkipping i s c :=
  completesSkipping_of_skipIf (by rw [hexec, keyTest, hk]) hc

theorem faultsWith_of_keyTest {w : Nat} (hw : HasWord i w) (hexec : exec i s = keyTest i x skips s)
    (hk : keyIndex s.config.keyIndex (s.reg x) = none) :
    FaultsWith i s (.keyIndexOutOfRange (BitVec.ofNat 16 w) (s.reg x)) := by
  rw [hw.ofNat_eq]
  exact hexec.trans (by rw [keyTest, hk]; rfl)

end

/-- Settles O37: both instructions are one key test, with opposite skips. -/
theorem keyTestsFollowTheSnapshot : Obligations.KeyTestsFollowTheSnapshot := by
  intro s x
  have hskp : HasWord (.skp x) (0xE09E + 256 * x.val) := hasWord_of_wordFXNN (.skp x) rfl
  have hsknp : HasWord (.sknp x) (0xE0A1 + 256 * x.val) := hasWord_of_wordFXNN (.sknp x) rfl
  have hexecSkp : exec (.skp x) s = keyTest (.skp x) x (fun down => down) s := rfl
  have hexecSknp : exec (.sknp x) s = keyTest (.sknp x) x (fun down => !down) s := rfl
  refine ⟨hskp, hsknp, fun k hk => ?_, fun ⟨habove, hp⟩ => ?_⟩
  · have hkey := keyIndex_eq_some hk
    exact ⟨completesSkipping_of_keyTest hexecSkp hkey Iff.rfl,
      completesSkipping_of_keyTest hexecSknp hkey (by simp)⟩
  · have hnone : keyIndex s.config.keyIndex (s.reg x) = none := by rw [hp, keyIndex_fault habove]
    exact ⟨faultsWith_of_keyTest hskp hexecSkp hnone, faultsWith_of_keyTest hsknp hexecSknp hnone⟩

section
variable {s : State} (x : Reg)

/-- R186: with nothing latched the smallest key down is latched. -/
theorem exec_ldVxK_latch (h : s.pending = none) :
    exec (.ldVxK x) s = retry { s with pending := firstKeyDown s.keys } := by
  simp only [exec, execLdVxK, h]

theorem exec_ldVxK_held {k : Key} (h : s.pending = some k) (hk : s.keys[k] = true) :
    exec (.ldVxK x) s = retry s := by
  simp only [exec, execLdVxK, h, hk, if_true]

theorem exec_ldVxK_released {k : Key} (h : s.pending = some k) (hk : s.keys[k] = false) :
    exec (.ldVxK x) s = complete { s.setReg x (BitVec.ofNat 8 k.val) with pending := none } := by
  simp only [exec, execLdVxK, h, hk, Bool.false_eq_true, if_false]

end

/-- Settles O38: the three cases of the latch. -/
theorem keyWaitLatchesThenCommits : Obligations.KeyWaitLatchesThenCommits := by
  intro s x
  refine ⟨hasWord_familyF (.ldVxK x) rfl, fun hnone => ?_, fun k hk hdown => ?_, fun k hk hup => ?_⟩
  · exact ⟨_, exec_ldVxK_latch x hnone, fun k => firstKeyDown_eq_some, rfl⟩
  · exact exec_ldVxK_held x hk hdown
  · refine ⟨_, exec_ldVxK_released x hk hup, ?_, fun r hr => State.reg_setReg_ne s _ hr,
      fun _ => rfl, rfl⟩
    exact (congrArg BitVec.toNat (State.reg_setReg_same s x _)).trans
      (toNat_ofNat_of_lt (k.isLt.trans (by decide)))

end Sys2Proof.Machine

/-!
The statements about fetch, the cycle, the step and the transactions (spec/20_memory.md section 2,
spec/30_encoding.md section 5, spec/60_exceptions.md, spec/70_reset_and_hazards.md section 1).
-/
namespace Sys2Proof.Machine

/-! ## Fetch and the cycle -/

/-- R75, R82: an undefined word runs as a no-op. -/
theorem exec_of_isNoOp {i : Instr} (h : i.isNoOp = true) (s : State) : exec i s = complete s := by
  cases i with
  | nop0 | nop5 | nop8 | nop9 | nopE | nopF => rfl
  | _ => cases h

/-- Settles O5: a word without a row decodes to a no-op. -/
theorem undefinedWordsRunAsNoOps : Obligations.UndefinedWordsRunAsNoOps := by
  refine ⟨fun s nnn x y n nn i hi => exec_of_isNoOp ?_ s, fun s keys rnd fci w hrun hw hno => ?_⟩
  · simp only [List.mem_cons, List.not_mem_nil, or_false] at hi
    rcases hi with rfl | rfl | rfl | rfl | rfl | rfl <;> rfl
  · obtain ⟨hpc, hword⟩ := State.fetches_iff.1 hw
    rw [cycle_of_fetch hrun hpc, hword, exec_of_isNoOp ((isNoOp_decode_iff w).2 hno)]
    rfl

theorem State.running_consumeInput {s : State} : s.consumeInput.running ↔ s.running := by
  simp [State.running]

theorem State.wordAtPc_consumeInput (s : State) : s.consumeInput.wordAtPc = s.wordAtPc := by
  simp [State.wordAtPc, State.readByte]

/-- R80, R81, R224: a step of a running core with two bytes at PC. -/
theorem step_of_exec {s t : State} (hrun : s.running) (hpc : s.pc.toNat + 1 < memorySize)
    (hexec : exec (decode s.wordAtPc)
      { s.consumeInput with pc := s.pc + 2, keys := s.nextKeys, rnd := s.nextRnd } = .next t) :
    step s = .next (endCycle t) := by
  refine step_of_cycle ?_
  rw [cycle_of_fetch (State.running_consumeInput.2 hrun) (by rwa [State.consumeInput_pc]),
    State.wordAtPc_consumeInput, State.consumeInput_pc, ← hexec, ← State.consumeInput_fci s]

/-- Settles O6: the two bytes are the word at PC, and `step_of_exec` runs it. -/
theorem stepRunsTheDecodedInstruction : Obligations.StepRunsTheDecodedInstruction := by
  intro s t i rest hrun hpc hdecode hexec
  obtain ⟨rfl, -⟩ := Prod.mk.inj (Except.ok.inj hdecode)
  exact step_of_exec hrun hpc hexec

/-- Settles O7: the fault is taken at PC itself. -/
theorem fetchPastTheEndFaults : Obligations.FetchPastTheEndFaults := fun _ _ _ _ hrun hpc =>
  cycle_of_fetch_fault hrun hpc

/-- R57: the bytes of a word as numbers. -/
theorem highByte_eq_ofNat (w : Word) : highByte w = BitVec.ofNat 8 (w.toNat / 256) := by
  apply BitVec.eq_of_toNat_eq
  simp [highByte, BitVec.extractLsb'_toNat, Nat.shiftRight_eq_div_pow]

theorem lowByte_eq_ofNat (w : Word) : lowByte w = BitVec.ofNat 8 (w.toNat % 256) := by
  apply BitVec.eq_of_toNat_eq
  simp [lowByte, BitVec.extractLsb'_toNat]

/-- Log entry 16: where PC can be fetched from, the word is placed there. -/
theorem State.withFetchWord_eq {s : State} (w : Word) (h : s.pc.toNat + 1 < memorySize) :
    s.withFetchWord 16 w.toNat =
      { s with
        init := true, fault := none,
        mem := (s.storeBytes s.pc.toNat [highByte w, lowByte w]).mem } := by
  have hw : BitVec.ofNat 16 (w.toNat % 2 ^ 16) = w := by
    rw [Nat.mod_eq_of_lt w.isLt, BitVec.ofNat_toNat, BitVec.setWidth_eq]
  unfold State.withFetchWord
  simp only [hw, if_neg (not_le.2 h)]
  rfl

/-- Settles O8: the two bytes stored at PC are the two bytes fetched. -/
theorem wordPlacedIsFetchedBigEndian : Obligations.WordPlacedIsFetchedBigEndian := by
  intro s w hwf hpc
  rw [State.withFetchWord_eq w hpc]
  have hbyte {k : Nat} (hk : k < 2) :
      (s.storeBytes s.pc.toNat [highByte w, lowByte w]).readByte (s.pc.toNat + k) =
        [highByte w, lowByte w][k]'hk :=
    s.readByte_storeBytes_inside hwf hpc hk
  have hhigh := hbyte (k := 0) (by decide)
  have hlow := hbyte (k := 1) (by decide)
  refine ⟨hhigh.trans (highByte_eq_ofNat w), hlow.trans (lowByte_eq_ofNat w), ?_⟩
  rw [fetch_in_range (by exact hpc)]
  refine congrArg some (Prod.ext ?_ rfl)
  exact (congrArg₂ wordOfBytes hhigh hlow).trans (wordOfBytes_bytes w)

/-- Settles O9: by `blockStore` the two bytes at PC are the two registers. -/
theorem storedCodeIsFetched : Obligations.StoredCodeIsFetched := by
  intro s t x hi lo hwf hin hsucc hlo hpc hexec
  obtain ⟨t', hexec', hread, -, -, hframe⟩ := (blockStore s x hwf).2.1 hin
  obtain rfl := Host.Outcome.next.inj (hexec'.symm.trans hexec)
  have hpcT : t'.pc = s.pc := by rw [hframe]
  have hhi : hi ≤ x := (Fin.le_def.2 (by omega)).trans hlo
  have hrange : t'.pc.toNat + 1 < memorySize := by
    rw [hpcT, hpc]
    exact lt_of_le_of_lt (by have := Fin.le_def.1 hlo; omega) hin
  rw [fetch_in_range hrange, State.wordAtPc, hpcT, hpc, hread hi hhi, Nat.add_assoc, hsucc,
    hread lo hlo]

/-! ## A halted core -/

theorem State.not_running_iff {s : State} : ¬ s.running ↔ s.init = false ∨ s.fault ≠ none := by
  simp only [State.running, not_and_or, Bool.not_eq_true, ne_eq]

theorem timerTick_of_halted {s : State} (h : ¬ s.running) : timerTick s = s := by
  rw [timerTick, if_pos (State.halted_eq_true.2 h)]

/-- Settles O10: both transactions test the core first. -/
theorem haltedCoreDoesNothing : Obligations.HaltedCoreDoesNothing := fun _ _ _ _ h =>
  ⟨cycle_of_halted (State.not_running_iff.2 h), timerTick_of_halted (State.not_running_iff.2 h)⟩

/-- R224: the end of a tick without a host action. -/
theorem endTick_of_no_action {s : State} (h : s.hostActions = []) :
    endTick s = { (timerTick s).present with fci := 0 } :=
  betweenTicks_of_no_action (by simpa using h)

/-- A run is a step and the rest of the run. -/
theorem run_succ {M : Host.Core} {s s' : M.State} (k : Nat) (h : M.step s = .next s') :
    M.run (k + 1) s = M.run k s' := by
  rw [Host.Core.run, h]

/-- What every step keeps holds after any number of steps. -/
theorem run_keeps {P : State → Prop} (hstep : ∀ s s', P s → step s = .next s' → P s') {k : Nat}
    {s t : State} (hs : P s) (hrun : Sys2Proof.core.run k s = .next t) : P t := by
  induction k generalizing s with
  | zero => exact Host.Outcome.next.inj hrun ▸ hs
  | succ k ih =>
    obtain ⟨s', hs'⟩ := stepAlwaysAnswers s
    exact ih (hstep s s' hs hs') ((run_succ (M := Sys2Proof.core) k hs').symm.trans hrun)

/-- `t` is `s` but for the environment's own fields and what the platform was handed. -/
def KeepsCore (s t : State) : Prop :=
  t = { s with
    fci := t.fci, inputs := t.inputs, draws := t.draws, status := t.status
    presented := t.presented }

/-- R211: a step of a halted core is a cycle that returns Halted and a tick whose timers do not
move. -/
theorem step_of_halted {s : State} (hhalted : ¬ s.running) (hhost : s.hostActions = []) :
    step s = .next { s.consumeInput.present with status := some .halted, fci := 0 } := by
  have hcycle : ¬ s.consumeInput.running := mt State.running_consumeInput.1 hhalted
  have htick : ¬ ({ s.consumeInput with status := some .halted } : State).running := hcycle
  rw [step_of_cycle (cycle_of_halted hcycle), endCycle_tick_end (by simp [State.tickEnds]),
    endTick_of_no_action (by simpa using hhost), timerTick_of_halted htick]
  rfl

/-- Every step after a halt keeps the core: what it keeps is still halted and without a host action. -/
theorem KeepsCore.step {s u u' : State} (h : KeepsCore s u) (hhalted : ¬ s.running)
    (hhost : s.hostActions = []) (hstep : step u = .next u') : KeepsCore s u' := by
  rw [KeepsCore] at h
  have hhaltedU : ¬ u.running := by rw [h]; exact hhalted
  have hhostU : u.hostActions = [] := by rw [h]; exact hhost
  rw [step_of_halted hhaltedU hhostU] at hstep
  obtain rfl := Host.Outcome.next.inj hstep
  rw [KeepsCore, h, State.consumeInput_eq]
  rfl

/-- Settles O11: `KeepsCore.step` through every run. -/
theorem haltedCoreStaysHalted : Obligations.HaltedCoreStaysHalted := fun _ s _ hhalted hhost =>
  run_keeps (P := KeepsCore s)
    (fun _ _ hu => hu.step (State.not_running_iff.2 hhalted) hhost) rfl

/-! ## The end of a tick -/

/-- Settles O40: the two cases of the tick. -/
theorem timerTickCountsDown : Obligations.TimerTickCountsDown := fun s =>
  ⟨fun hrun => ⟨toNat_timerTick_dt hrun, toNat_timerTick_st hrun, timerTick_eq s⟩,
    fun hhalted => timerTick_of_halted (State.not_running_iff.2 hhalted)⟩

theorem State.soundOn_eq (s : State) : s.soundOn = decide (0 < s.st.toNat) :=
  Bool.eq_iff_iff.2 (State.soundOn_iff.trans decide_eq_true_iff.symm)

/-- R224, R230, R231: what the end of a tick hands over, and what else it changes. -/
theorem present_timerTick (s : State) :
    (timerTick s).present = { s with
      dt := (timerTick s).dt, st := (timerTick s).st,
      presented := some { fb := s.fb, soundOn := decide (0 < (timerTick s).st.toNat) } } := by
  rw [State.present, State.soundOn_eq]
  by_cases hrun : s.running
  · rw [timerTick_of_running hrun]
  · rw [timerTick_of_halted hrun]

theorem State.tickEnds_eq_true {s : State} : s.tickEnds = true ↔
    s.status = some .faulted ∨ s.status = some .halted ∨ s.config.budget ≤ s.fci + 1 := by
  simp [State.tickEnds, or_assoc]

/-- Settles O41: with no host action `endCycle` only counts, or ends the tick. -/
theorem schedulerEndsTheTick : Obligations.SchedulerEndsTheTick := by
  intro s hhost
  refine ⟨fun hgoes => endCycle_mid_tick (State.tickEnds_eq_false.2 hgoes), fun hends => ?_⟩
  rw [endCycle_tick_end (State.tickEnds_eq_true.2 hends), endTick_of_no_action hhost,
    present_timerTick]

/-- What the scheduler may change where the host takes no action. -/
theorem endCycle_eq_of_no_action {s : State} (hhost : s.hostActions = []) :
    endCycle s = { s with
      dt := (endCycle s).dt, st := (endCycle s).st, fci := (endCycle s).fci,
      presented := (endCycle s).presented } := by
  cases hends : s.tickEnds with
  | false => rw [endCycle_mid_tick hends]
  | true => rw [endCycle_tick_end hends, endTick_of_no_action hhost, present_timerTick]

/-! ## Instructions that wait -/

theorem exec_drw_waits {s : State} (x y : Reg) (n : BitVec 4) (h : s.drawWaits = true) :
    exec (.drw x y n) s = retry s := if_pos h

/-- Settles O35: the draw retries at its own PC and the scheduler only counts the cycle. -/
theorem waitingDrawOnlyCountsTheCycle : Obligations.WaitingDrawOnlyCountsTheCycle := by
  intro s w x y n hrun hw hdecode hwait hfci hbudget
  obtain ⟨hpc, rfl⟩ := State.fetches_iff.1 hw
  have hwaits : State.drawWaits { s.consumeInput with
      pc := s.pc + 2, keys := s.nextKeys, rnd := s.nextRnd } = true := by
    simp [State.drawWaits, hwait, hfci]
  rw [step_of_exec hrun hpc (by rw [hdecode]; exact exec_drw_waits x y n hwaits),
    endCycle_mid_tick (State.tickEnds_eq_false.2 (by simpa using hbudget))]
  simp [State.instrAddr]

/-- A core that blocks in an FX0A: it runs, an FX0A is next, nothing is latched, and no key is down
now or in a listed input. -/
structure BlocksForKey (s : State) : Prop where
  running : s.running
  awaitsKey : s.awaitsKey
  notLatched : s.pending = none
  noHostAction : s.hostActions = []
  keysUp : ∀ j : Key, s.keys[j] = false
  inputsUp : ∀ c ∈ s.inputs, ∀ j : Key, c.keys[j] = false

theorem BlocksForKey.nextKeysUp {s : State} (h : BlocksForKey s) (j : Key) :
    s.nextKeys[j] = false := by
  unfold State.nextKeys
  split
  · exact h.keysUp j
  · exact h.inputsUp _ (by simp [*]) j

theorem State.mem_inputs_of_consumeInput {s : State} {c : CycleInput}
    (h : c ∈ s.consumeInput.inputs) : c ∈ s.inputs := by
  unfold State.consumeInput at h
  split at h
  · exact h
  · rename_i hinputs
    rw [hinputs]
    exact List.mem_cons_of_mem _ h

/-- R83, R186: with no key down the FX0A latches nothing and retries. -/
theorem BlocksForKey.step_eq {s : State} (h : BlocksForKey s) :
    step s = .next (endCycle { s.consumeInput with
      keys := s.nextKeys, rnd := s.nextRnd, pending := none, status := some .retry }) := by
  obtain ⟨hpc, x, hx⟩ := State.awaitsKey_iff.1 h.awaitsKey
  have hnone : firstKeyDown s.nextKeys = none := firstKeyDown_eq_none.2 h.nextKeysUp
  refine step_of_exec h.running hpc ?_
  rw [hx, exec_ldVxK_latch x (by simpa using h.notLatched)]
  simp [retry, State.instrAddr, hnone]

/-- A step of a core that blocks leaves it blocking, with PC, registers and memory as they were. -/
theorem BlocksForKey.step {s s' : State} (h : BlocksForKey s) (hstep : step s = .next s') :
    BlocksForKey s' ∧ s'.pc = s.pc ∧ s'.v = s.v ∧ s'.mem = s.mem := by
  rw [h.step_eq] at hstep
  obtain rfl := Host.Outcome.next.inj hstep
  rw [endCycle_eq_of_no_action (by simpa using h.noHostAction)]
  refine ⟨?_, State.consumeInput_pc s, State.consumeInput_v s, State.consumeInput_mem s⟩
  exact {
    running := State.running_consumeInput.2 h.running
    awaitsKey := by
      refine (State.awaitsKey_congr ?_ ?_ ?_).2 h.awaitsKey
      exacts [State.consumeInput_pc s, State.consumeInput_mem s, State.consumeInput_config s]
    notLatched := rfl
    noHostAction := (State.consumeInput_hostActions s).trans h.noHostAction
    keysUp := h.nextKeysUp
    inputsUp := fun c hc => h.inputsUp c (State.mem_inputs_of_consumeInput hc) }

/-- Settles O39: the block of `BlocksForKey.step` goes on through every run. -/
theorem keyWaitBlocksWithNoKeyDown : Obligations.KeyWaitBlocksWithNoKeyDown := by
  intro k s t w x hrun hw hdecode hpending hhost hkeys hinputs hsteps
  have hblocks : BlocksForKey s := ⟨hrun, ⟨w, x, hw, hdecode⟩, hpending, hhost, hkeys, hinputs⟩
  obtain ⟨hend, hpc, hv, hmem⟩ := run_keeps
    (P := fun u => BlocksForKey u ∧ u.pc = s.pc ∧ u.v = s.v ∧ u.mem = s.mem)
    (fun u u' ⟨hu, hpc, hv, hmem⟩ hstep =>
      let ⟨hu', hpc', hv', hmem'⟩ := hu.step hstep
      ⟨hu', hpc'.trans hpc, hv'.trans hv, hmem'.trans hmem⟩)
    ⟨hblocks, rfl, rfl, rfl⟩ hsteps
  exact ⟨hpc, hend.notLatched, hv, hmem, hend.running.2⟩

/-! ## Load and reset -/

/-- R240: a load that passes its checks. -/
theorem load_ok {program : List Byte} {config : Configuration} (s : State)
    (hlen : program.length ≤ 3584) (hips : 60 ≤ config.ips) :
    load (some program) config s =
      { initialise program { s with config := config } with lastLoad := some .ok } := by
  simp only [load, if_neg (not_lt.2 hlen), if_neg (not_lt.2 hips)]

/-- Settles O42: the load is the host's only action at the end of the tick. -/
theorem hostLoadsOnlyBetweenTicks : Obligations.HostLoadsOnlyBetweenTicks := by
  intro s program config rest hhost hlen hips
  refine ⟨endCycle_mid_tick, fun hends => ?_⟩
  have hactions : (timerTick s).present.hostActions = [.load (some program) config] :: rest := by
    rw [present_timerTick, hhost]
  have hend : endCycle s = load (some program) config
      { (timerTick s).present with fci := 0, hostActions := rest } := by
    rw [endCycle_tick_end hends, endTick, betweenTicks]
    simp only [hactions]
    rfl
  rw [hend, load_ok _ hlen hips, present_timerTick]
  exact ⟨rfl, rfl, rfl, rfl, rfl, rfl, rfl⟩

/-- Settles O43: the program lies over memory that reads as the font and zeroes. -/
theorem loadInitialisesTheCore : Obligations.LoadInitialisesTheCore := by
  intro s program config hlen hips
  have hend : 0x200 + program.length ≤ memorySize := Nat.add_le_add_left hlen 0x200
  have hprogram {k : Nat} (hk : k < program.length) :
      Memory.read config.font (Memory.writeBytes config.font [] 0x200 program) (0x200 + k) =
        program[k] := Memory.read_writeBytes_inside rfl hend hk
  have hunlisted {a : Nat} (ha : a < 0x200 ∨ 0x200 + program.length ≤ a) :
      Memory.read config.font (Memory.writeBytes config.font [] 0x200 program) a =
        Memory.unlisted config.font a := Memory.read_writeBytes_outside ha
  refine ⟨_, load_ok s hlen hips, rfl, fun k hk => hprogram hk, fun k => ?_, fun a hfont ha => ?_,
    fun r => ?_, rfl, rfl, rfl, fun k => ?_, rfl, rfl, Framebuffer.pixel_clear, fun k => ?_,
    rfl, rfl, rfl, rfl⟩
  · refine (hunlisted (.inl (by omega))).trans ?_
    rw [Memory.unlisted, dif_pos (by omega)]
    simp
  · exact (hunlisted ha).trans (by rw [Memory.unlisted, dif_neg (by omega)])
  · simp [State.reg, initialise]
  · simp [initialise]
  · simp [initialise, Keypad.allUp]

/-- Settles O44: each check of the two transactions in its order. -/
theorem failedLoadChangesNothing : Obligations.FailedLoadChangesNothing := by
  intro s program config
  refine ⟨rfl, fun hlong => ?_, fun hfits hips => ?_, fun hinit => ⟨?_, ?_⟩,
    fun hinit => ⟨?_, fun hlong => ?_⟩⟩
  · exact if_pos hlong
  · exact (if_neg (not_lt.2 hfits)).trans (if_pos hips)
  · exact if_neg (by simp [hinit])
  · exact if_neg (by simp [hinit])
  · exact if_pos hinit
  · exact (if_pos hinit).trans (if_pos hlong)

/-- Settles O45: with the kept IPS valid the two transactions make the same checks. -/
theorem resetIsLoadWithTheKeptConfiguration : Obligations.ResetIsLoadWithTheKeptConfiguration := by
  intro s program hinit hips
  cases program with
  | none => exact if_pos hinit
  | some bytes =>
    refine (if_pos hinit).trans ?_
    rw [load, if_neg (not_lt.2 hips)]

/-- Settles O46: by evaluation of the load. -/
theorem resetStateIsAnEmptyLoad : Obligations.ResetStateIsAnEmptyLoad := by
  rintro s t rfl
  exact ⟨rfl, rfl, rfl, rfl, rfl, rfl, rfl, rfl, rfl, rfl, rfl, rfl, rfl, rfl⟩

end Sys2Proof.Machine

/-!
The draw (spec/43_display.md section 2): within one draw no pixel is inverted twice, so the canvas is
the old framebuffer with exactly the covered pixels inverted, and the hit flag says whether one of
them was on.
-/
namespace Sys2Proof.Machine

/-! ## A canvas with a set of pixels inverted -/

/-- The canvas is `fb` with exactly the pixels of `C` inverted, and the hit says whether one was
on. -/
def Inverts (fb : Framebuffer) (cv : Canvas) (C : Fin 32 → Fin 64 → Prop) : Prop :=
  (∀ r c, cv.fb.pixel r c ≠ fb.pixel r c ↔ C r c) ∧
    (cv.hit = true ↔ ∃ r c, C r c ∧ fb.pixel r c = true)

section
variable {fb : Framebuffer} {cv : Canvas} {C D : Fin 32 → Fin 64 → Prop}

theorem Inverts.congr (h : Inverts fb cv C) (hCD : ∀ r c, C r c ↔ D r c) : Inverts fb cv D := by
  have : C = D := funext₂ fun r c => propext (hCD r c)
  exact this ▸ h

theorem inverts_start (fb : Framebuffer) : Inverts fb { fb := fb, hit := false } fun _ _ => False :=
  ⟨fun _ _ => by simp, by simp⟩

/-- R161, R165: inverting one more pixel. -/
theorem Inverts.invert (h : Inverts fb cv C) {y : Fin 32} {x : Fin 64} (hnew : ¬ C y x) :
    Inverts fb (cv.invert y x) fun r c => C r c ∨ (r = y ∧ c = x) := by
  obtain ⟨hpixel, hhit⟩ := h
  have hsame : cv.fb.pixel y x = fb.pixel y x := not_not.1 (mt (hpixel y x).1 hnew)
  refine ⟨fun r c => ?_, ?_⟩
  · rw [Canvas.pixel_invert]
    split_ifs with hrc
    · obtain ⟨rfl, rfl⟩ := hrc
      simp [hsame]
    · simp [hpixel, hrc]
  · have hor : (cv.invert y x).hit = true ↔ cv.hit = true ∨ fb.pixel y x = true := by
      rw [Canvas.invert, Bool.or_eq_true, hsame]
    rw [hor, hhit]
    constructor
    · rintro (⟨r, c, hC, hon⟩ | hon)
      · exact ⟨r, c, .inl hC, hon⟩
      · exact ⟨y, x, .inr ⟨rfl, rfl⟩, hon⟩
    · rintro ⟨r, c, hC | ⟨rfl, rfl⟩, hon⟩
      · exact .inl ⟨r, c, hC, hon⟩
      · exact .inr hon

end

/-! ## One sprite row -/

/-- One of the first `m` bits of a sprite row is set and lands on column `c` (R162, R164). -/
def rowCovers (wrap : Bool) (x0 : Nat) (row : Byte) (m : Nat) (c : Fin 64) : Prop :=
  ∃ b < m, spriteBit row b = true ∧ columnOf wrap x0 b = some c

theorem rowCovers_succ {wrap : Bool} {x0 m : Nat} {row : Byte} {c : Fin 64} :
    rowCovers wrap x0 row (m + 1) c ↔ rowCovers wrap x0 row m c ∨
      (spriteBit row m = true ∧ columnOf wrap x0 m = some c) := by
  simp only [rowCovers, Nat.lt_succ_iff_lt_or_eq]
  constructor
  · rintro ⟨b, hb | rfl, h⟩
    · exact .inl ⟨b, hb, h⟩
    · exact .inr h
  · rintro (⟨b, hb, h⟩ | h)
    · exact ⟨b, .inl hb, h⟩
    · exact ⟨m, .inr rfl, h⟩

/-- R164: the columns of two bits of a row differ. -/
theorem columnOf_injective {wrap : Bool} {x0 b b' : Nat} {c : Fin 64} (hb : b < 64) (hb' : b' < 64)
    (h : columnOf wrap x0 b = some c) (h' : columnOf wrap x0 b' = some c) : b = b' := by
  rw [columnOf_eq_some] at h h'
  cases wrap <;> simp only [Bool.false_eq_true, if_true, if_false] at h h' <;> omega

/-- R164: the framebuffer rows of two sprite rows differ. -/
theorem rowOf_injective {wrap : Bool} {y0 k k' : Nat} {r : Fin 32} (hk : k < 32) (hk' : k' < 32)
    (h : rowOf wrap y0 k = some r) (h' : rowOf wrap y0 k' = some r) : k = k' := by
  rw [rowOf_eq_some] at h h'
  cases wrap <;> simp only [Bool.false_eq_true, if_true, if_false] at h h' <;> omega

section
variable {fb : Framebuffer} {cv : Canvas} {C : Fin 32 → Fin 64 → Prop} {wrap : Bool} {x0 : Nat}

/-- R161, R164: a bit of a row inverts the pixel it lands on, if it is set and lands on one. -/
theorem Inverts.drawBit (h : Inverts fb cv C) {y : Fin 32} {row : Byte} {b : Nat}
    (hnew : ∀ c, columnOf wrap x0 b = some c → ¬ C y c) :
    Inverts fb (drawBit wrap x0 y row cv b) fun r c =>
      C r c ∨ (r = y ∧ spriteBit row b = true ∧ columnOf wrap x0 b = some c) := by
  unfold Machine.drawBit
  split_ifs with hbit
  · cases hcol : columnOf wrap x0 b with
    | some x => exact (h.invert (hnew x hcol)).congr fun r c => by simp [hbit, eq_comm]
    | none => exact h.congr fun r c => by simp
  · exact h.congr fun r c => by simp [hbit]

/-- The first `m` bits of a row, drawn on a framebuffer row nothing was drawn on. -/
theorem Inverts.foldl_drawBit (h : Inverts fb cv C) {y : Fin 32} {row : Byte} {m : Nat} (hm : m ≤ 8)
    (hnew : ∀ c, ¬ C y c) :
    Inverts fb ((List.range m).foldl (Machine.drawBit wrap x0 y row) cv) fun r c =>
      C r c ∨ (r = y ∧ rowCovers wrap x0 row m c) := by
  induction m with
  | zero => exact h.congr fun r c => by simp [rowCovers]
  | succ m ih =>
    rw [List.range_succ, List.foldl_append]
    refine ((ih (by omega)).drawBit ?_).congr fun r c => ?_
    · rintro c hc (hC | ⟨-, b, hb, -, hcol⟩)
      · exact hnew c hC
      · exact absurd (columnOf_injective (by omega) (by omega) hcol hc) (by omega)
    · rw [rowCovers_succ, or_assoc, and_or_left]

/-- R161, R162: sprite row `k`, on a framebuffer row nothing was drawn on. -/
theorem Inverts.drawRow (h : Inverts fb cv C) {y0 k : Nat} {row : Byte}
    (hnew : ∀ y c, rowOf wrap y0 k = some y → ¬ C y c) :
    Inverts fb (drawRow wrap x0 y0 cv k row) fun r c =>
      C r c ∨ (rowOf wrap y0 k = some r ∧ rowCovers wrap x0 row 8 c) := by
  unfold Machine.drawRow
  cases hrow : rowOf wrap y0 k with
  | some y =>
    exact (h.foldl_drawBit le_rfl fun c => hnew y c hrow).congr fun r c => by simp [eq_comm]
  | none => exact h.congr fun r c => by simp

end

/-! ## The sprite -/

/-- One of the first `m` rows of the sprite at `base` covers the pixel. -/
def spriteRowsCover (s : State) (wrap : Bool) (x0 y0 base m : Nat) (r : Fin 32) (c : Fin 64) :
    Prop :=
  ∃ k < m, rowOf wrap y0 k = some r ∧ rowCovers wrap x0 (s.readByte (base + k)) 8 c

/-- R161: the first `m` rows of a sprite. -/
theorem inverts_drawSprite (s : State) (wrap : Bool) (x0 y0 base : Nat) {m : Nat} (hm : m ≤ 32) :
    Inverts s.fb (drawSprite wrap x0 y0 base m s) (spriteRowsCover s wrap x0 y0 base m) := by
  unfold drawSprite
  induction m with
  | zero => exact (inverts_start s.fb).congr fun r c => by simp [spriteRowsCover]
  | succ m ih =>
    rw [List.range_succ, List.foldl_append]
    refine ((ih (by omega)).drawRow ?_).congr fun r c => ?_
    · rintro y c hy ⟨k, hk, hrow, -⟩
      exact absurd (rowOf_injective (by omega) (by omega) hrow hy) (by omega)
    · simp only [spriteRowsCover, Nat.lt_succ_iff_lt_or_eq, or_and_right, exists_or, exists_eq_left]

/-- R164: where a bit lands is where its row and its column are. -/
theorem landsOn_iff {wrap : Bool} {x0 y0 k b : Nat} {r : Fin 32} {c : Fin 64} :
    landsOn wrap x0 y0 k b r c ↔ rowOf wrap y0 k = some r ∧ columnOf wrap x0 b = some c := by
  rw [landsOn, rowOf_eq_some, columnOf_eq_some]
  cases wrap <;> rfl

/-- R161, R164: of the N rows those not processed are clipped. -/
theorem lt_drawnRows_iff {s : State} {y : Reg} {n : BitVec 4} {k : Nat} {r : Fin 32}
    (h : rowOf s.config.wrapSprites (spriteRow (s.reg y)) k = some r) :
    k < drawnRows y n s ↔ k < n.toNat := by
  rw [rowOf_eq_some] at h
  unfold drawnRows spriteRows
  split_ifs at h ⊢
  · rfl
  · omega

/-- The pixels DXYN inverts are those the statements' `spriteCovers` names. -/
theorem spriteRowsCover_iff (s : State) (x y : Reg) (n : BitVec 4) (r : Fin 32) (c : Fin 64) :
    spriteRowsCover s s.config.wrapSprites (spriteColumn (s.reg x)) (spriteRow (s.reg y)) s.i.toNat
      (drawnRows y n s) r c ↔ s.spriteCovers x y n r c := by
  constructor
  · rintro ⟨k, hk, hrow, b, hb, hbit, hcol⟩
    exact ⟨k, b, (lt_drawnRows_iff hrow).1 hk, hb, hbit, landsOn_iff.2 ⟨hrow, hcol⟩⟩
  · rintro ⟨k, b, hk, hb, hbit, hlands⟩
    obtain ⟨hrow, hcol⟩ := landsOn_iff.1 hlands
    exact ⟨k, (lt_drawnRows_iff hrow).2 hk, hrow, b, hb, hbit, hcol⟩

theorem inverts_drawnCanvas (s : State) (x y : Reg) (n : BitVec 4) :
    Inverts s.fb (drawnCanvas x y n s) (s.spriteCovers x y n) := by
  have hrows : drawnRows y n s ≤ 32 := by
    unfold drawnRows spriteRows
    split <;> omega
  exact (inverts_drawSprite s _ _ _ _ hrows).congr (spriteRowsCover_iff s x y n)

/-! ## The instruction -/

section
variable {s : State} {x y : Reg} {n : BitVec 4}

theorem State.drawWaits_eq_false (h : s.config.waitForVblank = false ∨ s.fci = 0) :
    s.drawWaits = false := by
  rcases h with h | h <;> simp [State.drawWaits, h]

/-- R161: a draw that does not wait is one access. -/
theorem exec_drw_of_not_waits (x y : Reg) (n : BitVec 4) (h : s.drawWaits = false) :
    exec (.drw x y n) s = withDataAccess (.drw x y n) (drawnRows y n s) s
      (State.setFlag { s with fb := (drawnCanvas x y n s).fb } (drawnCanvas x y n s).hit) :=
  if_neg (by simp [h])

/-- A draw completes where it does not wait and every processed row is in range (R163, R217). -/
def DrawRuns (y : Reg) (n : BitVec 4) (s : State) : Prop :=
  s.drawWaits = false ∧ (drawnRows y n s = 0 ∨ s.i.toNat + drawnRows y n s ≤ memorySize)

theorem exec_drw_of_runs (x : Reg) (h : DrawRuns y n s) :
    exec (.drw x y n) s = complete
      (State.setFlag { s with fb := (drawnCanvas x y n s).fb } (drawnCanvas x y n s).hit) := by
  rw [exec_drw_of_not_waits x y n h.1, withDataAccess_in_range h.2]

/-- The only completed draws are those that run. -/
theorem drawRuns_of_completed {t : State} (h : exec (.drw x y n) s = .next t)
    (hstatus : t.status = some .completed) : DrawRuns y n s := by
  cases hw : s.drawWaits with
  | true =>
    rw [exec_drw_waits x y n hw, retry_eq_next] at h
    subst h
    cases hstatus
  | false =>
    rw [exec_drw_of_not_waits x y n hw] at h
    rcases withDataAccess_cases h with ⟨hr, -⟩ | ⟨-, rfl⟩
    · exact ⟨hw, hr⟩
    · cases hstatus

/-- R161, R165: what a draw that runs leaves: the covered pixels inverted, VF whether one of them was
on, and everything else. -/
theorem exec_drw_completes (x : Reg) (h : DrawRuns y n s) : ∃ t, exec (.drw x y n) s = .next t ∧
    (∀ r c, t.fb.pixel r c ≠ s.fb.pixel r c ↔ s.spriteCovers x y n r c) ∧
    ((∃ r c, s.spriteCovers x y n r c ∧ s.fb.pixel r c = true) → t.reg VF = 0x01) ∧
    ((¬ ∃ r c, s.spriteCovers x y n r c ∧ s.fb.pixel r c = true) → t.reg VF = 0x00) ∧
    (∀ r, r ≠ VF → t.reg r = s.reg r) ∧
    (∀ a, t.readByte a = s.readByte a) ∧
    t = { s with fb := t.fb, v := t.v, status := some .completed } := by
  obtain ⟨hpixel, hhit⟩ := inverts_drawnCanvas s x y n
  have hreg (r : Reg) := State.reg_setFlag { s with fb := (drawnCanvas x y n s).fb }
    (drawnCanvas x y n s).hit r
  refine ⟨_, exec_drw_of_runs x h, hpixel, fun hon => ?_, fun hoff => ?_, fun r hr => ?_,
    fun _ => rfl, rfl⟩
  · exact (hreg VF).trans (by rw [if_pos rfl, hhit.2 hon]; rfl)
  · exact (hreg VF).trans (by rw [if_pos rfl, Bool.eq_false_iff.2 (mt hhit.1 hoff)]; rfl)
  · exact (hreg r).trans (if_neg hr)

end

theorem hasWord_drw (x y : Reg) (n : BitVec 4) :
    HasWord (.drw x y n) (0xD000 + 256 * x.val + 16 * y.val + n.toNat) :=
  hasWord_of_toNat (by simp [encode, toNat_wordFXYN, Nat.mul_comm])

/-- Settles O33: a draw waits, runs or has a row out of range. -/
theorem drawXorsTheSprite : Obligations.DrawXorsTheSprite := by
  intro s x y n rows hrows
  have hrows : rows = drawnRows y n s := hrows
  subst hrows
  refine ⟨hasWord_drw x y n, fun ⟨hquirk, hfci⟩ => ?_, fun hgoes => ⟨fun hin => ?_, fun hout => ?_⟩⟩
  · exact exec_drw_waits x y n (by simp [State.drawWaits, hquirk, hfci])
  · exact exec_drw_completes x ⟨State.drawWaits_eq_false hgoes, hin⟩
  · exact faultsWith_of_withDataAccess (hasWord_drw x y n)
      (exec_drw_of_not_waits x y n (State.drawWaits_eq_false hgoes)) hout.1 hout.2

/-- What decides which pixels a draw covers: the two coordinates, I, memory and the
configuration. -/
theorem State.spriteCovers_congr {s t : State} {x y : Reg} (n : BitVec 4) (hx : t.reg x = s.reg x)
    (hy : t.reg y = s.reg y) (hi : t.i = s.i) (hmem : t.mem = s.mem) (hconfig : t.config = s.config)
    (r : Fin 32) (c : Fin 64) : t.spriteCovers x y n r c ↔ s.spriteCovers x y n r c := by
  simp only [State.spriteCovers, State.readByte, hx, hy, hi, hmem, hconfig]

/-- Settles O34: the first draw leaves what it reads alone, so the second inverts the same pixels,
each of them now the opposite of what it was. -/
theorem drawTwiceRestoresTheFramebuffer : Obligations.DrawTwiceRestoresTheFramebuffer := by
  intro s t x y n hx hy hexec hstatus
  have hruns := drawRuns_of_completed hexec hstatus
  obtain ⟨t', hexec', hpixel, -, -, hreg, -, hframe⟩ := exec_drw_completes x hruns
  obtain rfl : t' = t := Host.Outcome.next.inj (hexec'.symm.trans hexec)
  have hty := hreg y hy
  have hrunsT : DrawRuns y n t' := by
    have hrows : drawnRows y n t' = drawnRows y n s := by
      rw [drawnRows, drawnRows, hty, hframe]
    rw [DrawRuns, hrows, hframe]
    exact hruns
  have hcovers (r : Fin 32) (c : Fin 64) :
      t'.spriteCovers x y n r c ↔ s.spriteCovers x y n r c :=
    State.spriteCovers_congr n (hreg x hx) hty (by rw [hframe]) (by rw [hframe]) (by rw [hframe])
      r c
  obtain ⟨u, hexecU, hpixelU, hon, hoff, -, -, hframeU⟩ := exec_drw_completes x hrunsT
  have hinverted {r : Fin 32} {c : Fin 64} (h : s.spriteCovers x y n r c) :
      t'.fb.pixel r c = !s.fb.pixel r c := Bool.eq_not.2 ((hpixel r c).2 h)
  have hflipped : (∃ r c, t'.spriteCovers x y n r c ∧ t'.fb.pixel r c = true) ↔
      ∃ r c, s.spriteCovers x y n r c ∧ s.fb.pixel r c = false := by
    simp only [hcovers]
    exact exists_congr fun r => exists_congr fun c => and_congr_right fun h => by simp [hinverted h]
  refine ⟨u, hexecU, by rw [hframeU], Framebuffer.ext_pixel fun r c => ?_,
    fun h => hon (hflipped.2 h), fun h => hoff (mt hflipped.1 h)⟩
  by_cases h : s.spriteCovers x y n r c
  · rw [Bool.eq_not.2 ((hpixelU r c).2 ((hcovers r c).2 h)), hinverted h, Bool.not_not]
  · rw [not_not.1 (mt (hpixelU r c).1 (mt (hcovers r c).1 h)), not_not.1 (mt (hpixel r c).1 h)]

end Sys2Proof.Machine
